-- ==== Sys2Proof/Word.lean ====
section
/-! DEFINITION. The word types of the block: a byte, the 16-bit checksum and the 32-bit bus word (00_scope.md R8). -/

namespace Sys2Proof

/-- An 8-bit unsigned value (R8). -/
abbrev Byte := BitVec 8

/-- A 16-bit unsigned value, the width of the CRC (R8, R90). -/
abbrev Half := BitVec 16

/-- A 32-bit register or command word (R22, R70). -/
abbrev Word := BitVec 32

end Sys2Proof
end

