-- ==== Sys2Proof/Syntax.lean ====
section
/-! DEFINITION. The commands of 30_encoding.md R73, the fields of a command word (R70), and the moves of the four
agents (00_scope.md R7, 20_memory.md R57; written form in 30_encoding.md R78). -/

namespace Sys2Proof

/-- The ten commands, one constructor per row of the opcode table (30_encoding.md R73). -/
inductive Instr where
  | nop
  | crcInit
  | crcByte (b : Byte)
  | lrcInit
  | lrcByte (b : Byte)
  | rxPoll
  | frameAck
  | txClear
  | txPush (b : Byte)
  | txSend
  deriving DecidableEq, Repr, Inhabited

/-- The two command formats (R71): `n` has no operand, `b` carries a byte in imm8. -/
inductive Format where
  | n
  | b
  deriving DecidableEq, Repr

/-- The fields of a command word (R70). -/
structure CmdFields where
  rsv  : BitVec 16
  imm8 : Byte
  op   : Byte
  deriving DecidableEq, Repr

/-- The opcode map (R73): the format of an assigned command code, `none` for a reserved one. -/
def opFormat (op : Byte) : Option Format :=
  if op = 0x00#8 then some .n
  else if op = 0x01#8 then some .n
  else if op = 0x02#8 then some .b
  else if op = 0x03#8 then some .n
  else if op = 0x04#8 then some .b
  else if op = 0x10#8 then some .n
  else if op = 0x11#8 then some .n
  else if op = 0x20#8 then some .n
  else if op = 0x21#8 then some .b
  else if op = 0x22#8 then some .n
  else none

/-- One access of a host to an address, of a width in bytes (20_memory.md R50, R52). -/
inductive Access where
  | read  (addr width : Nat)
  | write (addr width : Nat) (v : Word)
  deriving DecidableEq, Repr, Inhabited

/-- One atomic step of an agent (R57). -/
inductive Move where
  /-- The host's `RD` or `WR` (R78). -/
  | host (a : Access)
  /-- An access by a second host, which R65 refuses. -/
  | secondHost (a : Access)
  /-- `CLOCK t`: the Clock sets its count to `t` (R78, R183). -/
  | clock (t : Nat)
  /-- `FIRE`: the block sequencer's turn (R78, R147). -/
  | fire
  /-- The platform's reset input to the block, or power-up (R190). -/
  | reset
  deriving DecidableEq, Repr, Inhabited

end Sys2Proof
end

