-- ==== Sys2Proof/Config.lean ====
section
/-! DEFINITION. The parameters of 00_scope.md R6 with the spec's defaults, and the free values: the draws of the
transport (R9, U4, U5) and the environment's next move where State holds none (R57, U6, U18). -/

namespace Sys2Proof.Config

/-- RESET_GATE: whether the transmit gate counts reset as activity (R6, R33). -/
inductive ResetGate where
  | armed
  | opened
  deriving DecidableEq, Repr

/-- The implementation parameters (R6). FOUT_CAP is derived from PENDING_CAP. -/
structure Params where
  base         : Nat
  pendingCap   : Nat
  txCap        : Nat
  readMax      : Nat
  timeW        : Nat
  spacingNum   : Nat
  spacingMult  : Nat
  guardMult    : Nat
  bitrateReset : Word
  resetGate    : ResetGate
  deriving DecidableEq, Repr

/-- FOUT_CAP = PENDING_CAP - 2 (R6). -/
def Params.foutCap (p : Params) : Nat := p.pendingCap - 2

/-- FOUT_WORDS = (FOUT_CAP + 3) div 4 (R22). -/
def Params.foutWords (p : Params) : Nat := (p.foutCap + 3) / 4

/-- The defaults of R6. BASE is OPEN there: 0 is a DESIGN CHOICE (log 4; unsafe). -/
def defaults : Params where
  base := 0
  pendingCap := 256
  txCap := 254
  readMax := 256
  timeW := 64
  spacingNum := 10000000
  spacingMult := 4
  guardMult := 2
  bitrateReset := 0#32
  resetGate := .armed

/-- Free value: the answer of the `n`-th draw of `Transport.read()` (R9, U4; log 3). -/
opaque freeRead : Nat → List Byte

/-- Free value: the count of the `n`-th draw of `Transport.write(W)` (R9, U5; log 3). -/
opaque freeWriteCount : Nat → Nat

/-- Free value: the move the environment makes at the `n`-th draw when nothing is scheduled (R57; log 2). -/
opaque freeMove : Nat → Move

end Sys2Proof.Config
end

