-- ==== Sys2Proof/WellFormed.lean ====
section
/-! DEFINITION. Well-formedness: of a command's fields (30_encoding.md R74, one check per clause), of an instruction
(its fields pass), and of the parameters (00_scope.md R6, one check per range). -/

namespace Sys2Proof

/-- R74 clause 1: the reserved bits are 0. -/
def CmdFields.rsvZero (f : CmdFields) : Bool := f.rsv == 0#16

/-- R74 clause 2: the command code is one of the ten of R73. -/
def CmdFields.opAssigned (f : CmdFields) : Bool := (opFormat f.op).isSome

/-- R74 clause 3: a format-N command has imm8 = 0. -/
def CmdFields.operandAllowed (f : CmdFields) : Bool := opFormat f.op != some .n || f.imm8 == 0#8

/-- Fields of a legal command word: no clause of R74 holds. -/
def CmdFields.wellFormed (f : CmdFields) : Bool := f.rsvZero && f.opAssigned && f.operandAllowed

/-- The command code and the operand byte of a command (R72, R73). -/
def Instr.fields : Instr → CmdFields
  | .nop       => ⟨0#16, 0#8, 0x00#8⟩
  | .crcInit   => ⟨0#16, 0#8, 0x01#8⟩
  | .crcByte b => ⟨0#16, b, 0x02#8⟩
  | .lrcInit   => ⟨0#16, 0#8, 0x03#8⟩
  | .lrcByte b => ⟨0#16, b, 0x04#8⟩
  | .rxPoll    => ⟨0#16, 0#8, 0x10#8⟩
  | .frameAck  => ⟨0#16, 0#8, 0x11#8⟩
  | .txClear   => ⟨0#16, 0#8, 0x20#8⟩
  | .txPush b  => ⟨0#16, b, 0x21#8⟩
  | .txSend    => ⟨0#16, 0#8, 0x22#8⟩

/-- An instruction is well-formed when its fields are (R74). -/
abbrev Instr.WellFormed (i : Instr) : Prop := i.fields.wellFormed = true

namespace Config

/-- BASE is 4096-byte aligned (R6, R50). -/
def Params.baseAligned (p : Params) : Bool := p.base % 4096 == 0

/-- 4 ≤ PENDING_CAP ≤ 3842 (R6). -/
def Params.pendingCapInRange (p : Params) : Bool := decide (4 ≤ p.pendingCap) && decide (p.pendingCap ≤ 3842)

/-- 0 ≤ TX_CAP ≤ 65533 (R6). -/
def Params.txCapInRange (p : Params) : Bool := decide (p.txCap ≤ 65533)

/-- 1 ≤ READ_MAX ≤ 65535 (R6). -/
def Params.readMaxInRange (p : Params) : Bool := decide (1 ≤ p.readMax) && decide (p.readMax ≤ 65535)

/-- 32 ≤ TIME_W ≤ 64 (R6). -/
def Params.timeWInRange (p : Params) : Bool := decide (32 ≤ p.timeW) && decide (p.timeW ≤ 64)

/-- The spacing parameters are at least 1 and their product is below 2^32 (R6). -/
def Params.spacingInRange (p : Params) : Bool :=
  decide (1 ≤ p.spacingNum) && decide (1 ≤ p.spacingMult) && decide (1 ≤ p.guardMult)
    && decide (p.spacingNum * p.spacingMult * p.guardMult < 2 ^ 32)

/-- Every parameter is within the range R6 states for it. BITRATE_RESET and RESET_GATE are so by their types. -/
def Params.legal (p : Params) : Bool :=
  p.baseAligned && p.pendingCapInRange && p.txCapInRange && p.readMaxInRange && p.timeWInRange && p.spacingInRange

end Config

end Sys2Proof
end

