-- ==== Sys2Proof/Decode.lean ====
section
/-! DEFINITION. The decoder of 30_encoding.md R75, total on all 32-bit words and rejecting by name, the encoder of R71
and R73, and the decoder as the opcode table numbers its bits. -/

namespace Sys2Proof

/-- Why a command word is Illegal: the clauses of R74 in their order. -/
inductive DecodeError where
  | reservedBits      -- clause 1: v[31:16] ≠ 0
  | reservedOp        -- clause 2: no command has this code
  | operandInFormatN  -- clause 3: a format-N code with v[15:8] ≠ 0
  deriving DecidableEq, Repr

/-- The fields of a command word: rsv = v[31:16], imm8 = v[15:8], op = v[7:0] (R70, R72). -/
def fieldsOf (v : Word) : CmdFields where
  rsv  := v.extractLsb' 16 16
  imm8 := v.extractLsb' 8 8
  op   := v.extractLsb' 0 8

/-- A format-N command: legal only with imm8 = 0 (R75). -/
def noOperand (imm8 : Byte) (i : Instr) : Except DecodeError Instr :=
  if imm8 = 0#8 then .ok i else .error .operandInFormatN

/-- Decoding of a command word from its fields (R75). -/
def decodeFields (f : CmdFields) : Except DecodeError Instr :=
  if f.rsv ≠ 0#16 then .error .reservedBits
  else if f.op = 0x02#8 then .ok (.crcByte f.imm8)
  else if f.op = 0x04#8 then .ok (.lrcByte f.imm8)
  else if f.op = 0x21#8 then .ok (.txPush f.imm8)
  else if f.op = 0x00#8 then noOperand f.imm8 .nop
  else if f.op = 0x01#8 then noOperand f.imm8 .crcInit
  else if f.op = 0x03#8 then noOperand f.imm8 .lrcInit
  else if f.op = 0x10#8 then noOperand f.imm8 .rxPoll
  else if f.op = 0x11#8 then noOperand f.imm8 .frameAck
  else if f.op = 0x20#8 then noOperand f.imm8 .txClear
  else if f.op = 0x22#8 then noOperand f.imm8 .txSend
  else .error .reservedOp

/-- `decode` of R75. -/
def decode (v : Word) : Except DecodeError Instr := decodeFields (fieldsOf v)

/-- The command word with the given fields: {rsv, imm8, op} (R70, R71). -/
def wordOf (f : CmdFields) : Word := f.rsv ++ f.imm8 ++ f.op

/-- The encoding of a command (R71, R73). -/
def encode (i : Instr) : Word := wordOf i.fields

/-- The instruction the decoder reads from `nbits` bits `w`, numbered from bit 0 of the one 32-bit word; the bits above
`nbits` are 0. A command is exactly one word (R77), so more than 32 bits are no command. -/
def decodeTableWord (nbits w : Nat) : Option Instr :=
  if nbits ≤ 32 then
    match decode ((BitVec.ofNat nbits w).setWidth 32) with
    | .ok i    => some i
    | .error _ => none
  else none

end Sys2Proof
end

