-- ==== Sys2Proof/Machine/State.lean ====
section
/-! DEFINITION. The state: the block's complete state as 10_state.md R37 lists it, and beside it the other agents
(00_scope.md R7) as plain data. Its value right after reset (70_reset_and_hazards.md R190). -/

namespace Sys2Proof.Machine

open Sys2Proof.Config

/-- The complete state of the block: exactly the elements of R37, in its order. -/
structure Block where
  /-- `st.crc_acc`: the running CRC-16 (R25). -/
  crcAcc : Half
  /-- `st.lrc_sum`: the running 8-bit sum (R26). -/
  lrcSum : Byte
  /-- PEND: PENDING_CAP bytes (R27). -/
  pend : List Byte
  /-- `st.pend_len`: how many bytes of PEND are valid (R27). -/
  pendLen : Nat
  /-- `st.pend_ovf`: the candidate has lost bytes (R28). -/
  pendOvf : Bool
  /-- FOUT: FOUT_CAP bytes (R29). -/
  fout : List Byte
  /-- `st.frame_len`: the length of the latched frame (R29). -/
  frameLen : Nat
  /-- `st.frame_valid`: the frame has not been acknowledged (R29). -/
  frameValid : Bool
  /-- TXB: TX_CAP bytes (R31). -/
  txb : List Byte
  /-- `st.tx_len`: how many bytes of TXB are the payload (R31). -/
  txLen : Nat
  /-- `st.bitrate`: bits per second (R32). -/
  bitrate : Word
  /-- `st.t_last_rx`: the `now` of the last poll that got bytes, below 2^TIME_W (R33). -/
  tLastRx : Nat
  /-- `st.t_last_act`: the `now` of the last activity on the line, below 2^TIME_W (R33). -/
  tLastAct : Nat
  /-- `st.act_valid`: `st.t_last_act` holds a real time (R33). -/
  actValid : Bool
  /-- `st.tx_wait`: a send is pending (R38). -/
  txWait : Bool
  /-- `st.sticky`: STATUS bits 15:8 (R24). -/
  sticky : BitVec 8
  /-- `st.rx_result`: the outcome of the latest accepted poll (R35). -/
  rxResult : Word
  deriving DecidableEq, Repr

/-- The Transport agent's answers still to come, in order (R9, U4, U5; log 3). -/
structure Transport where
  /-- What the coming calls of `Transport.read()` return. -/
  reads : List (List Byte)
  /-- What the coming calls of `Transport.write(W)` return. -/
  writes : List Nat
  deriving DecidableEq, Repr

/-- One write that put bytes on the line: the Clock's count at the call, and the bytes in line order (R64; log 12). -/
structure Sent where
  time  : Nat
  bytes : List Byte
  deriving DecidableEq, Repr

/-- The whole system: parameters, block, and the other agents. -/
structure State where
  /-- The parameters of R6; no step changes them (log 4). -/
  cfg : Params
  /-- The block (R37). -/
  block : Block
  /-- The Clock agent's count of microseconds, unbounded; the block sees its low TIME_W bits (R183; log 7). -/
  clock : Nat
  /-- The Transport agent. -/
  transport : Transport
  /-- What was put on the line, oldest first (log 12). -/
  line : List Sent
  /-- The value the host's last read returned (R54; log 11). -/
  readData : Word
  /-- The moves the agents make next, in order (R57; log 1). -/
  script : List Move
  /-- How many free values have been drawn (log 2, log 3). -/
  draws : Nat
  deriving DecidableEq, Repr

/-- The faults of the model (60_exceptions.md R172). The block itself never stops (R170). -/
inductive Fault where
  /-- Raised by a host access that is not a 32-bit access at a multiple of 4 (R52). Safe: the machine stops where the
  spec gives no meaning. -/
  | busAccessFault (off width : Nat)
  /-- Raised by a host access outside the block's window, which is not the block's (R50; log 9). Safe: the machine stops
  where the spec gives no meaning. -/
  | outsideWindow (addr : Nat)
  /-- Raised by a Clock step backwards (R172, R183). Safe: the spec gives no such step a meaning. -/
  | clockRegression (now now' : Nat)
  deriving DecidableEq, Repr

/-- The refusals of the model. -/
inductive Refusal where
  /-- Raised by exec for a command that has no meaning yet. Safe: the machine stops. -/
  | notModelled (mnemonic : String)
  /-- Raised by an access of a second host (R65, R172). Safe: the spec says the model refuses it. -/
  | multiHostRefused
  deriving DecidableEq, Repr

/-- What a step answers. -/
abbrev Answer := Host.Outcome State Fault Refusal

/-- The block right after a reset at `now` (R190). PEND and TXB, whose bytes R190 leaves unspecified, hold zeros
(DESIGN CHOICE, log 5; unsafe). -/
def Block.afterReset (p : Params) (now : Nat) : Block where
  crcAcc := 0xFFFF#16
  lrcSum := 0#8
  pend := List.replicate p.pendingCap 0#8
  pendLen := 0
  pendOvf := false
  fout := List.replicate p.foutCap 0#8
  frameLen := 0
  frameValid := false
  txb := List.replicate p.txCap 0#8
  txLen := 0
  bitrate := p.bitrateReset
  tLastRx := 0
  tLastAct := match p.resetGate with | .armed => now | .opened => 0
  actValid := match p.resetGate with | .armed => true | .opened => false
  txWait := false
  sticky := 0#8
  rxResult := 0#32

/-- The machine right after reset (R190): the block as R190 says with the default parameters, the Clock at 0 (DESIGN
CHOICE, log 6; unsafe), nothing scheduled and nothing on the line. -/
def State.reset : State where
  cfg := defaults
  block := Block.afterReset defaults 0
  clock := 0
  transport := { reads := [], writes := [] }
  line := []
  readData := 0#32
  script := []
  draws := 0

end Sys2Proof.Machine
end

