-- ==== Sys2Proof/Machine/Flags.lean ====
section
/-! DEFINITION. The STATUS flags (10_state.md R24, 60_exceptions.md R171): raising a sticky flag, clearing by a host write,
and the value STATUS reads. -/

namespace Sys2Proof.Machine

/-- The sticky event flags of R171, in the order of their STATUS bits 8 to 15. -/
inductive Flag where
  | txDone
  | txErr
  | rxShort
  | rxCrc
  | rxOvf
  | frameOvr
  | txOvf
  | cmdErr
  deriving DecidableEq, Repr

/-- The flag's bit of `st.sticky`; its STATUS bit is 8 more (R24). -/
def Flag.index : Flag → Nat
  | .txDone   => 0
  | .txErr    => 1
  | .rxShort  => 2
  | .rxCrc    => 3
  | .rxOvf    => 4
  | .frameOvr => 5
  | .txOvf    => 6
  | .cmdErr   => 7

/-- The byte with the flag's bit alone. -/
def Flag.mask (f : Flag) : BitVec 8 := 1#8 <<< f.index

/-- `flag(NAME)`: the one way an event is recorded, there being no traps (R9, R170). -/
def Block.raise (f : Flag) (b : Block) : Block := { b with sticky := b.sticky ||| f.mask }

/-- `flag(NAME)` where a condition holds. -/
def Block.raiseIf (c : Bool) (f : Flag) (b : Block) : Block := if c then b.raise f else b

/-- The host's write of `v` to STATUS: `sticky & ~v[15:8]` (R24). -/
def Block.clearFlags (v : Word) (b : Block) : Block := { b with sticky := b.sticky &&& ~~~(v.extractLsb' 8 8) }

/-- Live bit CFG_ERR: the bitrate is 0 (R24). -/
def Block.cfgErr (b : Block) : Bool := b.bitrate == 0#32

/-- Live bit RX_PENDING: PEND is not empty (R24). -/
def Block.rxPending (b : Block) : Bool := b.pendLen != 0

/-- The value STATUS reads: {0, sticky, 0, CFG_ERR, RX_PENDING, FRAME_VALID, BUSY} (R24). -/
def Block.status (b : Block) : Word :=
  0#16 ++ b.sticky ++ 0#4 ++ BitVec.ofBool b.cfgErr ++ BitVec.ofBool b.rxPending ++ BitVec.ofBool b.frameValid
    ++ BitVec.ofBool b.txWait

end Sys2Proof.Machine
end

