-- ==== Sys2Proof/Machine/Operands.lean ====
section
/-! DEFINITION. How words are made of bytes and fields: the little-endian bus word (20_memory.md R51), the CRC in line order
(R55), the frame window (10_state.md R30), RX_RESULT (R35), CAPS (R36); and the pure functions crc16 and lrc
(40_checksum.md R90, R95). -/

namespace Sys2Proof.Machine

open Sys2Proof.Config

/-- A bus word from its four bytes, byte 0 in bits 7:0 (R51). -/
def wordOfBytes (b0 b1 b2 b3 : Byte) : Word := b3 ++ b2 ++ b1 ++ b0

/-- The low byte of a CRC, the first on the line (R55). -/
def crcLo (c : Half) : Byte := c.extractLsb' 0 8

/-- The high byte of a CRC, the second on the line (R55). -/
def crcHi (c : Half) : Byte := c.extractLsb' 8 8

/-- A received CRC: `trailing[-2] | trailing[-1] << 8` (R55, R117). -/
def crcOfBytes (lo hi : Byte) : Half := lo.setWidth 16 ||| (hi.setWidth 16 <<< 8)

/-- One of the eight shifts of R90. -/
def crcShift (c : Half) : Half := if c.getLsbD 0 then (c >>> 1) ^^^ 0xA001#16 else c >>> 1

/-- `n` shifts. -/
def crcShifts : Nat → Half → Half
  | 0, c     => c
  | n + 1, c => crcShifts n (crcShift c)

/-- `crc_step` of R90: the byte enters the low 8 bits, then eight shifts. The loop body is general knowledge in the spec's
own words (log 13). -/
def crcStep (c : Half) (b : Byte) : Half := crcShifts 8 (c ^^^ b.setWidth 16)

/-- `crc16` of R90: from 0xFFFF, no final XOR. -/
def crc16 (l : List Byte) : Half := l.foldl crcStep 0xFFFF#16

/-- The 8-bit sum of R95. -/
def lrcSumOf (l : List Byte) : Byte := l.foldl (· + ·) 0#8

/-- Negation mod 256: `(256 - s) mod 256` (R26, R95). -/
def lrcOfSum (s : Byte) : Byte := 0#8 - s

/-- `lrc` of R95. -/
def lrc (l : List Byte) : Byte := lrcOfSum (lrcSumOf l)

/-- The wire frame of a payload: P ++ [crc low, crc high] (R55, R141). -/
def wireFrame (p : List Byte) : List Byte := p ++ [crcLo (crc16 p), crcHi (crc16 p)]

/-- Byte `k` of the frame window: FOUT[k] below the frame's length, else 0x00 (R30). -/
def Block.frameByte (b : Block) (k : Nat) : Byte := if k < b.frameLen then b.fout.getD k 0#8 else 0#8

/-- FRAME_DATA[i] (R30). -/
def Block.frameWord (b : Block) (i : Nat) : Word :=
  wordOfBytes (b.frameByte (4 * i)) (b.frameByte (4 * i + 1)) (b.frameByte (4 * i + 2)) (b.frameByte (4 * i + 3))

/-- The outcome codes of a poll (R35). -/
inductive RxCode where
  | none
  | appended
  | idle
  | waiting
  | frame
  | discardShort
  | discardCrc
  | discardOvf
  deriving DecidableEq, Repr

/-- RX_RESULT.CODE (R35). -/
def RxCode.bits : RxCode → BitVec 4
  | .none         => 0#4
  | .appended     => 1#4
  | .idle         => 2#4
  | .waiting      => 3#4
  | .frame        => 4#4
  | .discardShort => 5#4
  | .discardCrc   => 6#4
  | .discardOvf   => 7#4

/-- RX_RESULT: {NREAD[15:0], 12'h000, CODE} (R35). -/
def rxResultWord (nread : Nat) (code : RxCode) : Word := BitVec.ofNat 16 nread ++ 0#12 ++ code.bits

/-- CAPS: {TX_CAP[15:0], PENDING_CAP[15:0]} (R36). -/
def capsWord (p : Params) : Word := BitVec.ofNat 16 p.txCap ++ BitVec.ofNat 16 p.pendingCap

end Sys2Proof.Machine
end

