-- ==== Sys2Proof/Machine/Ops.lean ====
section
/-! DEFINITION. The shared operations: the clock and the spacing (41_rx_boundary.md R110 to R112, 42_tx_framer.md R140), the
transport's draws (00_scope.md R9), rejection and acceptance of a command (43_control.md R161 to R163), and the updates of the
block's buffers. The block has no traps: recording an event by `Block.raise` (Flags.lean) and rejecting a command here are
all that stands in their place (60_exceptions.md R170, R174). -/

namespace Sys2Proof.Machine

open Sys2Proof.Config

/-! ## The block inside the state -/

/-- The state with the block changed and nothing else. -/
def State.onBlock (f : Block → Block) (s : State) : State := { s with block := f s.block }

/-! ## Time -/

/-- `now`: the low TIME_W bits of the Clock's count (R9, R111; log 7). -/
def State.now (s : State) : Nat := s.clock % 2 ^ s.cfg.timeW

/-- `elapsed(t) = (now - t) mod 2^TIME_W` (R111). -/
def State.elapsed (s : State) (t : Nat) : Nat := (s.now + 2 ^ s.cfg.timeW - t) % 2 ^ s.cfg.timeW

/-- The packet spacing for a bitrate: division first, then the multiple; 0 where the bitrate is 0, which is what SPACING
shows then (R34, R110). -/
def packetSpacing (p : Params) (bitrate : Word) : Nat :=
  if bitrate = 0#32 then 0 else (p.spacingNum / bitrate.toNat) * p.spacingMult

/-- `pspace()` (R110). -/
def State.pspace (s : State) : Nat := packetSpacing s.cfg s.block.bitrate

/-- `rx_silent` (R112): equality counts as silent. -/
def State.rxSilent (s : State) : Bool := decide (s.pspace ≤ s.elapsed s.block.tLastRx)

/-- `tx_gate_open` (R140): equality opens the gate. -/
def State.txGateOpen (s : State) : Bool :=
  !s.block.actValid || decide (s.cfg.guardMult * s.pspace ≤ s.elapsed s.block.tLastAct)

/-! ## The transport -/

/-- `Transport.read()`: the next answer, or a free value once State holds none, cut to READ_MAX bytes (R9; log 3). -/
def State.transportRead (s : State) : List Byte × State :=
  match s.transport.reads with
  | a :: rest => (a.take s.cfg.readMax, { s with transport := { s.transport with reads := rest } })
  | []        => ((freeRead s.draws).take s.cfg.readMax, { s with draws := s.draws + 1 })

/-- `Transport.write(W)` for a `W` of `len` bytes: the next answer, or a free value once State holds none, at most `len`
(R9; log 3). -/
def State.transportWrite (len : Nat) (s : State) : Nat × State :=
  match s.transport.writes with
  | k :: rest => (min k len, { s with transport := { s.transport with writes := rest } })
  | []        => (min (freeWriteCount s.draws) len, { s with draws := s.draws + 1 })

/-! ## Command issue -/

/-- A rejected command: CMD_ERR and nothing else (R162). -/
def State.reject (s : State) : State := s.onBlock (·.raise .cmdErr)

/-- A command other than NOP: rejected while a send is pending (R162), else its effect. -/
def unlessBusy (effect : State → State) (s : State) : Answer :=
  if s.block.txWait then .next s.reject else .next (effect s)

/-- A command that needs the spacing: rejected while a send is pending, then for a bitrate of 0 (R76, R163). -/
def unlessBusyOrUnset (effect : State → State) (s : State) : Answer :=
  unlessBusy (fun s => if s.block.bitrate = 0#32 then s.reject else effect s) s

/-! ## The timestamps -/

/-- A poll that got bytes at `now` (R113): both timestamps, and the activity is real. -/
def Block.markReceived (now : Nat) (b : Block) : Block := { b with tLastRx := now, tLastAct := now, actValid := true }

/-- A write that put bytes on the line at `now` (R147). -/
def Block.markSent (now : Nat) (b : Block) : Block := { b with tLastAct := now, actValid := true }

/-! ## The buffers -/

/-- One received byte (R113): appended to PEND, or dropped with RX_OVF when PEND is full. -/
def Block.pushPend (cap : Nat) (b : Block) (x : Byte) : Block :=
  if b.pendLen < cap then { b with pend := b.pend.set b.pendLen x, pendLen := b.pendLen + 1 }
  else ({ b with pendOvf := true } : Block).raise .rxOvf

/-- The pending list, oldest byte first (R27). -/
def Block.pending (b : Block) : List Byte := b.pend.take b.pendLen

/-- The pending buffer reset to empty (R115). -/
def Block.emptyPend (b : Block) : Block := { b with pendLen := 0, pendOvf := false }

/-- The outcome of an accepted poll (R35). -/
def Block.recordPoll (nread : Nat) (code : RxCode) (b : Block) : Block := { b with rxResult := rxResultWord nread code }

/-- A frame latched for the host (R117). -/
def Block.latchFrame (f : List Byte) (b : Block) : Block :=
  { b with fout := f ++ b.fout.drop f.length, frameLen := f.length, frameValid := true }

/-- The payload (R31). -/
def Block.payload (b : Block) : List Byte := b.txb.take b.txLen

/-- One byte of payload (R143): appended to TXB, or dropped with TX_OVF when TXB is full. -/
def Block.pushTx (cap : Nat) (x : Byte) (b : Block) : Block :=
  if b.txLen < cap then { b with txb := b.txb.set b.txLen x, txLen := b.txLen + 1 } else b.raise .txOvf

end Sys2Proof.Machine
end

