-- ==== Sys2Proof/Machine/Checksum.lean ====
section
/-! DEFINITION. The checksum commands (40_checksum.md R91, R92, R96, R97). -/

namespace Sys2Proof.Machine

/-- CRC_INIT (R91). -/
def execCrcInit (s : State) : Answer := unlessBusy (·.onBlock fun b => { b with crcAcc := 0xFFFF#16 }) s

/-- CRC_BYTE (R92). -/
def execCrcByte (x : Byte) (s : State) : Answer :=
  unlessBusy (·.onBlock fun b => { b with crcAcc := crcStep b.crcAcc x }) s

/-- LRC_INIT (R96). -/
def execLrcInit (s : State) : Answer := unlessBusy (·.onBlock fun b => { b with lrcSum := 0#8 }) s

/-- LRC_BYTE (R97): the carry out of bit 7 is discarded. -/
def execLrcByte (x : Byte) (s : State) : Answer := unlessBusy (·.onBlock fun b => { b with lrcSum := b.lrcSum + x }) s

end Sys2Proof.Machine
end

