-- ==== Sys2Proof/Machine/Control.lean ====
section
/-! DEFINITION. The command of no family: NOP (43_control.md R160). -/

namespace Sys2Proof.Machine

/-- NOP (R160): never rejected, changes nothing. -/
def execNop (s : State) : Answer := .next s

end Sys2Proof.Machine
end

