-- ==== Sys2Proof/Machine/Receive.lean ====
section
/-! DEFINITION. The frame boundary detector: RX_POLL (41_rx_boundary.md R113 to R118) and FRAME_ACK (R121). -/

namespace Sys2Proof.Machine

/-- The candidate `c` judged once silence has declared it complete; `lost` says that it overflowed (R116, R117, R118). The
pending buffer has been reset to empty. -/
def Block.judge (c : List Byte) (lost : Bool) (b : Block) : Block :=
  if lost then b.recordPoll 0 .discardOvf
  else if c.length ≤ 3 then (b.raise .rxShort).recordPoll 0 .discardShort
  else
    let m := c.length
    let body := c.take (m - 2)
    if crc16 body = crcOfBytes (c.getD (m - 2) 0#8) (c.getD (m - 1) 0#8) then
      ((b.raiseIf b.frameValid .frameOvr).latchFrame body).recordPoll 0 .frame
    else (b.raise .rxCrc).recordPoll 0 .discardCrc

/-- A poll that got the bytes `new` at `now` (R114). -/
def Block.accumulate (cap now : Nat) (new : List Byte) (b : Block) : Block :=
  ((new.foldl (Block.pushPend cap) b).markReceived now).recordPoll new.length .appended

/-- A poll that got no bytes (R115). -/
def State.pollSilence (s : State) : State :=
  if s.block.pendLen = 0 then s.onBlock (·.recordPoll 0 .idle)
  else if s.rxSilent then s.onBlock fun b => b.emptyPend.judge b.pending b.pendOvf
  else s.onBlock (·.recordPoll 0 .waiting)

/-- One `receive()` call (R113). -/
def State.poll (s : State) : State :=
  match s.transportRead with
  | ([], s')  => s'.pollSilence
  | (new, s') => s'.onBlock (·.accumulate s'.cfg.pendingCap s'.now new)

/-- RX_POLL (R113): needs an idle block and a bitrate. -/
def execRxPoll (s : State) : Answer := unlessBusyOrUnset State.poll s

/-- FRAME_ACK (R121): FOUT keeps its bytes (log 14). -/
def execFrameAck (s : State) : Answer :=
  unlessBusy (·.onBlock fun b => { b with frameValid := false, frameLen := 0 }) s

end Sys2Proof.Machine
end

