-- ==== Sys2Proof/Machine/Transmit.lean ====
section
/-! DEFINITION. The transmit framer: TX_CLEAR, TX_PUSH, TX_SEND (42_tx_framer.md R142, R143, R146) and the sequencer's internal
step TX_FIRE (R147, R148). -/

namespace Sys2Proof.Machine

/-- TX_CLEAR (R142). -/
def execTxClear (s : State) : Answer := unlessBusy (·.onBlock fun b => { b with txLen := 0 }) s

/-- TX_PUSH (R143). -/
def execTxPush (x : Byte) (s : State) : Answer := unlessBusy (fun s => s.onBlock (·.pushTx s.cfg.txCap x)) s

/-- TX_SEND (R146): only the send's pending state in this step. -/
def execTxSend (s : State) : Answer := unlessBusyOrUnset (·.onBlock fun b => { b with txWait := true }) s

/-- TX_FIRE is enabled: a send waits and the gate is open (R147). -/
def State.txFireEnabled (s : State) : Bool := s.block.txWait && s.txGateOpen

/-- The block after a write that took `k` of `len` bytes at `now` (R147, R148). -/
def Block.sendDone (k len now : Nat) (b : Block) : Block :=
  let b := b.raise (if k = len then .txDone else .txErr)
  let b := if 1 ≤ k then b.markSent now else b
  { b with txLen := 0, txWait := false }

/-- The first `k` bytes of `w` put on the line (R9, R188; log 12). -/
def State.putOnLine (k : Nat) (w : List Byte) (s : State) : State :=
  if 1 ≤ k then { s with line := s.line ++ [{ time := s.clock, bytes := w.take k }] } else s

/-- TX_FIRE (R147). -/
def State.txFire (s : State) : State :=
  let w := wireFrame s.block.payload
  match s.transportWrite w.length with
  | (k, s') => (s'.putOnLine k w).onBlock (·.sendDone k w.length s'.now)

/-- The sequencer's turn: TX_FIRE where it is enabled, else the send goes on holding (R146, R147; log 8). -/
def State.sequencerTurn (s : State) : State := if s.txFireEnabled then s.txFire else s

end Sys2Proof.Machine
end

