-- ==== Sys2Proof/Machine/Dispatch.lean ====
section
/-! DEFINITION. One arm per command: a command that decoded, with its own busy and bitrate checks (43_control.md R161). -/

namespace Sys2Proof.Machine

def exec (i : Instr) (s : State) : Host.Outcome State Fault Refusal :=
  match i with
  | .nop => Sys2Proof.Machine.execNop s
  | .crcInit => Sys2Proof.Machine.execCrcInit s
  | .crcByte x => Sys2Proof.Machine.execCrcByte x s
  | .lrcInit => Sys2Proof.Machine.execLrcInit s
  | .lrcByte x => Sys2Proof.Machine.execLrcByte x s
  | .rxPoll => Sys2Proof.Machine.execRxPoll s
  | .frameAck => Sys2Proof.Machine.execFrameAck s
  | .txClear => Sys2Proof.Machine.execTxClear s
  | .txPush x => Sys2Proof.Machine.execTxPush x s
  | .txSend => Sys2Proof.Machine.execTxSend s

end Sys2Proof.Machine
end

