-- ==== Sys2Proof/Machine/Registers.lean ====
section
/-! DEFINITION. The register window (10_state.md R22, 20_memory.md R66): which register an offset is, what a read returns, what a
write does, and the issue of a command by a write to CMD (43_control.md R161). -/

namespace Sys2Proof.Machine

open Sys2Proof.Config

/-- The registers of R22. -/
inductive Reg where
  | cmd
  | status
  | crcValue
  | lrcValue
  | bitrate
  | spacing
  | rxLen
  | rxResult
  | frameLen
  | txLen
  | caps
  | frameData (i : Nat)
  | reserved
  deriving DecidableEq, Repr

/-- The register at an offset of the window that is a multiple of 4 (R22, R41, R66). -/
def regAt (p : Params) (off : Nat) : Reg :=
  if off = 0x000 then .cmd
  else if off = 0x004 then .status
  else if off = 0x008 then .crcValue
  else if off = 0x00C then .lrcValue
  else if off = 0x010 then .bitrate
  else if off = 0x014 then .spacing
  else if off = 0x018 then .rxLen
  else if off = 0x01C then .rxResult
  else if off = 0x020 then .frameLen
  else if off = 0x024 then .txLen
  else if off = 0x028 then .caps
  else if 0x100 ≤ off ∧ off < 0x100 + 4 * p.foutWords then .frameData ((off - 0x100) / 4)
  else .reserved

/-- The value a register reads (R23 to R36, R41). -/
def State.regValue (s : State) : Reg → Word
  | .cmd         => 0#32
  | .status      => s.block.status
  | .crcValue    => s.block.crcAcc.setWidth 32
  | .lrcValue    => (lrcOfSum s.block.lrcSum).setWidth 32
  | .bitrate     => s.block.bitrate
  | .spacing     => BitVec.ofNat 32 s.pspace
  | .rxLen       => BitVec.ofNat 32 s.block.pendLen
  | .rxResult    => s.block.rxResult
  | .frameLen    => BitVec.ofNat 32 s.block.frameLen
  | .txLen       => BitVec.ofNat 32 s.block.txLen
  | .caps        => capsWord s.cfg
  | .frameData i => s.block.frameWord i
  | .reserved    => 0#32

/-- `issue(v)`: an Illegal word is rejected, a command is executed with its own checks (R161, R162). -/
def issue (v : Word) (s : State) : Answer :=
  match decode v with
  | .ok i    => exec i s
  | .error _ => .next s.reject

/-- The host's write to BITRATE: ignored with CMD_ERR while a send is pending (R32). -/
def writeBitrate (v : Word) (s : State) : State :=
  if s.block.txWait then s.reject else s.onBlock fun b => { b with bitrate := v }

/-- A host write to a register; only CMD, STATUS and BITRATE have an effect (R41, R53). -/
def writeReg (r : Reg) (v : Word) (s : State) : Answer :=
  match r with
  | .cmd         => issue v s
  | .status      => .next (s.onBlock (·.clearFlags v))
  | .bitrate     => .next (writeBitrate v s)
  | .crcValue    => .next s
  | .lrcValue    => .next s
  | .spacing     => .next s
  | .rxLen       => .next s
  | .rxResult    => .next s
  | .frameLen    => .next s
  | .txLen       => .next s
  | .caps        => .next s
  | .frameData _ => .next s
  | .reserved    => .next s

/-- A host read (R53): the host receives the value and the block is unchanged. -/
def readReg (r : Reg) (s : State) : Answer := .next { s with readData := s.regValue r }

end Sys2Proof.Machine
end

