-- ==== Sys2Proof/Machine/Agents.lean ====
section
/-! DEFINITION. The agents' steps (00_scope.md R7, 20_memory.md R57): a host access to the window (R50, R52), a Clock advance
(60_exceptions.md R183), the sequencer's turn (42_tx_framer.md R147), the reset input (70_reset_and_hazards.md R190); which move is
next, and a list of moves performed in order. -/

namespace Sys2Proof.Machine

open Sys2Proof.Config

/-- The address of an access. -/
def accessAddr : Access → Nat
  | .read a _    => a
  | .write a _ _ => a

/-- The width of an access in bytes. -/
def accessWidth : Access → Nat
  | .read _ w    => w
  | .write _ w _ => w

/-- The access at the register found there (R22). -/
def accessReg (a : Access) (r : Reg) (s : State) : Answer :=
  match a with
  | .read _ _    => readReg r s
  | .write _ _ v => writeReg r v s

/-- A host access: inside the window (R50), 32 bits wide at a multiple of 4 (R52). -/
def hostAccess (a : Access) (s : State) : Answer :=
  if accessAddr a < s.cfg.base ∨ s.cfg.base + 4096 ≤ accessAddr a then .fault (.outsideWindow (accessAddr a))
  else if accessWidth a ≠ 4 ∨ (accessAddr a - s.cfg.base) % 4 ≠ 0 then
    .fault (.busAccessFault (accessAddr a - s.cfg.base) (accessWidth a))
  else accessReg a (regAt s.cfg (accessAddr a - s.cfg.base)) s

/-- A Clock step to `t` (R183): never backwards. -/
def clockStep (t : Nat) (s : State) : Answer :=
  if t < s.clock then .fault (.clockRegression s.clock t) else .next { s with clock := t }

/-- Reset of the block in one step at the Clock's present value; the transport and the other agents go on (R190). -/
def State.resetBlock (s : State) : State := { s with block := Block.afterReset s.cfg s.now }

/-- One atomic step of an agent (R57). -/
def perform (m : Move) (s : State) : Answer :=
  match m with
  | .host a       => hostAccess a s
  | .secondHost _ => .refused .multiHostRefused
  | .clock t      => clockStep t s
  | .fire         => .next s.sequencerTurn
  | .reset        => .next s.resetBlock

/-- The move made next: the first scheduled, or a free value when none is (log 1, log 2). -/
def State.nextMove (s : State) : Move :=
  match s.script with
  | m :: _ => m
  | []     => freeMove s.draws

/-- The state once the next move has been taken from the schedule, or drawn. -/
def State.taken (s : State) : State :=
  match s.script with
  | _ :: rest => { s with script := rest }
  | []        => { s with draws := s.draws + 1 }

/-- The system's step: the next move, performed (R57). -/
def advance (s : State) : Answer := perform s.nextMove s.taken

/-- Moves performed in order, to the first fault or refusal. -/
def performAll : List Move → State → Answer
  | [], s      => .next s
  | m :: ms, s =>
    match perform m s with
    | .next s'   => performAll ms s'
    | .fault r   => .fault r
    | .refused r => .refused r

/-- The host's write of a word to CMD (R78). -/
def cmdWrite (p : Params) (v : Word) : Move := .host (.write p.base 4 v)

end Sys2Proof.Machine
end

