-- ==== Sys2Proof/Machine/Step.lean ====
section
/-! DEFINITION. The step function and the placing of a command as the very next move. -/

namespace Sys2Proof.Machine

/-- One step of the system (20_memory.md R57). -/
def step (s : State) : Host.Outcome State Fault Refusal := advance s

/-- The state whose very next step is the host's write to CMD of the word with the low `nbits` bits `w` and zeros above: the
block fetches nothing, a command comes from the host (R3, R21; log 2). -/
def State.withFetchWord (s : State) (nbits w : Nat) : State :=
  { s with script := cmdWrite s.cfg ((BitVec.ofNat nbits w).setWidth 32) :: s.script }

end Sys2Proof.Machine
end

