-- ==== Sys2Proof/Machine/Pseudo.lean ====
section
/-! DEFINITION. The host-program notation and the pseudo-instructions of 30_encoding.md R78 and R79: as lists of moves where no
access depends on a value read, and as host programs where one does (WAIT_IDLE, READ_FRAME). -/

namespace Sys2Proof.Machine

open Sys2Proof.Config

/-- A mnemonic line: the command's word written to CMD (R78). -/
def issueMove (p : Params) (i : Instr) : Move := cmdWrite p (encode i)

/-- `WR` to the register at an offset (R78). -/
def wrMove (p : Params) (off : Nat) (v : Word) : Move := .host (.write (p.base + off) 4 v)

/-- `RD` of the register at an offset (R78). -/
def rdMove (p : Params) (off : Nat) : Move := .host (.read (p.base + off) 4)

/-- CRC_BUF (R79). -/
def crcBuf (p : Params) (l : List Byte) : List Move := issueMove p .crcInit :: l.map fun x => issueMove p (.crcByte x)

/-- LRC_BUF (R79). -/
def lrcBuf (p : Params) (l : List Byte) : List Move := issueMove p .lrcInit :: l.map fun x => issueMove p (.lrcByte x)

/-- TX_LOAD (R79). -/
def txLoad (p : Params) (l : List Byte) : List Move := issueMove p .txClear :: l.map fun x => issueMove p (.txPush x)

/-- SEND (R79). -/
def send (p : Params) (l : List Byte) : List Move := txLoad p l ++ [issueMove p .txSend]

/-- CLEAR_FLAGS (R79). -/
def clearAllFlags (p : Params) : List Move := [wrMove p 0x004 0x0000FF00#32]

/-- A host program: from the value the host holds after each access it has made, oldest first, its next access; none when
it is done. After a read that is the value read, so a program can decide by it. -/
abbrev HostProgram := List Word → Option Move

/-- A program whose accesses do not depend on what is read: the list's, in order. -/
def straight (ms : List Move) : HostProgram := fun seen => ms[seen.length]?

/-- WAIT_IDLE (R79): `RD STATUS`, repeated until bit 0 of the value read is 0. -/
def waitIdle (p : Params) : HostProgram := fun seen =>
  match seen.getLast? with
  | none   => some (rdMove p 0x004)
  | some v => if v.getLsbD 0 then some (rdMove p 0x004) else none

/-- How many FRAME_DATA words READ_FRAME reads once FRAME_LEN has read `n` (R79). -/
def frameWordsOf (n : Word) : Nat := (n.toNat + 3) / 4

/-- READ_FRAME (R79): `RD FRAME_LEN -> n`, then as many FRAME_DATA words as that `n` fills, then FRAME_ACK. -/
def readFrame (p : Params) : HostProgram
  | []         => some (rdMove p 0x020)
  | n :: words =>
    if words.length < frameWordsOf n then some (rdMove p (0x100 + 4 * words.length))
    else if words.length = frameWordsOf n then some (issueMove p .frameAck)
    else none

/-- A host program run among the other agents: before each of its accesses the next list of `others` is performed. It answers
what the host has seen and the state when the program is done or `others` is used up, or stops where a move does (R57). -/
def runHost (prog : HostProgram) : List (List Move) → List Word → State → Host.Outcome (List Word × State) Fault Refusal
  | [], seen, s               => .next (seen, s)
  | between :: others, seen, s =>
    match prog seen with
    | none   => .next (seen, s)
    | some m =>
      match performAll (between ++ [m]) s with
      | .next t    => runHost prog others (seen ++ [t.readData]) t
      | .fault r   => .fault r
      | .refused r => .refused r

end Sys2Proof.Machine
end

