-- ==== Sys2Proof/Safety.lean ====
section
/-! DEFINITION. The terms claims are stated in: the invariant of the state, the command a move gets accepted, quiescence and
finished runs (60_exceptions.md R187), the bytes fed to the accumulators (40_checksum.md R93, R98), states that differ only in
bytes no rule reads (10_state.md R37), states shifted in time (60_exceptions.md R183), runs and the progress assumptions (R184). -/

namespace Sys2Proof.Machine

open Sys2Proof.Config

/-! ## The invariant -/

/-- What holds at reset and after every step: the parameters are in range, each element of R37 is within its width or range,
and the relations between elements that the rules set up. -/
structure State.Inv (s : State) : Prop where
  /-- R6. -/
  legal : s.cfg.legal = true
  /-- PEND is an array of PENDING_CAP bytes (R27). -/
  pendSize : s.block.pend.length = s.cfg.pendingCap
  /-- R27. -/
  pendLenLe : s.block.pendLen ≤ s.cfg.pendingCap
  /-- FOUT is an array of FOUT_CAP bytes (R29). -/
  foutSize : s.block.fout.length = s.cfg.foutCap
  /-- R29. -/
  frameLenLe : s.block.frameLen ≤ s.cfg.foutCap
  /-- TXB is an array of TX_CAP bytes (R31). -/
  txbSize : s.block.txb.length = s.cfg.txCap
  /-- R31. -/
  txLenLe : s.block.txLen ≤ s.cfg.txCap
  /-- TIME_W bits (R33). -/
  tLastRxLt : s.block.tLastRx < 2 ^ s.cfg.timeW
  /-- TIME_W bits (R33). -/
  tLastActLt : s.block.tLastAct < 2 ^ s.cfg.timeW
  /-- A timestamp is the low bits of a past time. -/
  tLastRxPast : s.block.tLastRx ≤ s.clock
  /-- A timestamp is the low bits of a past time. -/
  tLastActPast : s.block.tLastAct ≤ s.clock
  /-- An overflowed candidate fills PEND (R116). -/
  ovfFull : s.block.pendOvf = true → s.block.pendLen = s.cfg.pendingCap
  /-- The smallest frame has two bytes (R117). -/
  frameMin : s.block.frameValid = true → 2 ≤ s.block.frameLen
  /-- An acknowledged frame has length 0 (R121, R190). -/
  frameNone : s.block.frameValid = false → s.block.frameLen = 0
  /-- A pending send has a bitrate (R32, R163). -/
  waitBitrate : s.block.txWait = true → s.block.bitrate ≠ 0#32
  /-- With RESET_GATE = armed the activity time is always real (R33). -/
  armedValid : s.cfg.resetGate = .armed → s.block.actValid = true
  /-- Pending bytes are activity (R114). -/
  pendActivity : s.block.pendLen ≠ 0 → s.block.actValid = true
  /-- RX_RESULT[15:4] reads 0 (R35). -/
  resultReserved : s.block.rxResult.extractLsb' 4 12 = 0#12
  /-- Codes 8 to 15 are never produced (R35). -/
  resultCode : (s.block.rxResult.extractLsb' 0 4).toNat ≤ 7
  /-- Bytes were read exactly where the code is APPENDED (R35, R113). -/
  resultRead : s.block.rxResult.extractLsb' 16 16 ≠ 0#16 ↔ s.block.rxResult.extractLsb' 0 4 = 1#4

/-! ## Commands -/

/-- The word a move writes to CMD, if it does (R161). -/
def commandWord (m : Move) (s : State) : Option Word :=
  match m with
  | .host (.write a w v) => if a = s.cfg.base ∧ w = 4 then some v else none
  | _                    => none

/-- The checks of R161 reject a decoded command: busy and not NOP (R162), or the spacing is needed and the bitrate is 0
(R163). -/
abbrev rejects (i : Instr) (s : State) : Prop :=
  (s.block.txWait = true ∧ i ≠ .nop) ∨ ((i = .rxPoll ∨ i = .txSend) ∧ s.block.bitrate = 0#32)

/-- The command a move issues and the block accepts, if any (R161). -/
def accepted (m : Move) (s : State) : Option Instr :=
  match commandWord m s with
  | none   => none
  | some v =>
    match decode v with
    | .error _ => none
    | .ok i    => if rejects i s then none else some i

/-- The bytes fed to the running CRC since its last start, after a move, where `l` was fed before (R93). -/
def crcFed (m : Move) (s : State) (l : List Byte) : List Byte :=
  match m, accepted m s with
  | .reset, _            => []
  | _, some .crcInit     => []
  | _, some (.crcByte x) => l ++ [x]
  | _, _                 => l

/-- The bytes fed to the running LRC since its last start, after a move, where `l` was fed before (R98). -/
def lrcFed (m : Move) (s : State) (l : List Byte) : List Byte :=
  match m, accepted m s with
  | .reset, _            => []
  | _, some .lrcInit     => []
  | _, some (.lrcByte x) => l ++ [x]
  | _, _                 => l

/-! ## Runs -/

/-- No internal step is enabled and no send is owed to the line (R187). -/
abbrev State.quiescent (s : State) : Prop := s.block.txWait = false

/-- A finished run: its moves all answer, and it ends quiescent (R187). -/
def FinishedRun (ms : List Move) (s : State) : Prop := ∃ t, performAll ms s = .next t ∧ t.quiescent

/-- An endless run: the agents' moves and the states they pass through. -/
def AgentRun (moves : Nat → Move) (run : Nat → State) : Prop := ∀ n, perform (moves n) (run n) = .next (run (n + 1))

/-- Progress assumption 1 of R184: the Clock advances without bound. -/
def ClockUnbounded (run : Nat → State) : Prop := ∀ t, ∃ n, t < (run n).clock

/-- Progress assumption 2 of R184: a TX_FIRE that stays enabled is eventually taken. -/
def FireWeaklyFair (moves : Nat → Move) (run : Nat → State) : Prop :=
  ∀ n, (∀ m, n ≤ m → (run m).txFireEnabled = true) → ∃ m, n ≤ m ∧ moves m = .fire

/-- An RX_POLL at a time: `CLOCK t; RX_POLL` (R78). -/
def pollAt (p : Params) (t : Nat) : List Move := [.clock t, issueMove p .rxPoll]

/-- Polls at the times of a list of deliveries, in order. -/
def pollEach (p : Params) (ds : List (Nat × List Byte)) : List Move := ds.flatMap fun d => pollAt p d.1

/-- The times of the deliveries and the final time never go back. -/
def timesFrom (t : Nat) : List (Nat × List Byte) → Nat → Prop
  | [], last      => t ≤ last
  | d :: ds, last => t ≤ d.1 ∧ timesFrom d.1 ds last

/-- The time of the last delivery that has bytes; `seen` where none has. -/
def lastBytesAt (seen : Option Nat) : List (Nat × List Byte) → Option Nat
  | []      => seen
  | d :: ds => lastBytesAt (if d.2 = [] then seen else some d.1) ds

/-- No delivery without bytes comes after a silence of `gap` or more since bytes came, on a clock of `w` bits (R112, V-RT-1);
`seen` is when bytes last came, if they did. -/
def NoSilenceWithin (w gap : Nat) (seen : Option Nat) : List (Nat × List Byte) → Prop
  | []      => True
  | d :: ds =>
    (d.2 = [] → ∀ t, seen = some t → (d.1 - t) % 2 ^ w < gap) ∧
      NoSilenceWithin w gap (if d.2 = [] then seen else some d.1) ds

/-! ## Comparing two runs -/

/-- Two answers agree: next states related by `r`, or the same fault, or the same refusal. -/
def AnswersAgree (r : State → State → Prop) : Answer → Answer → Prop
  | .next a, .next b       => r a b
  | .fault a, .fault b     => a = b
  | .refused a, .refused b => a = b
  | _, _                   => False

/-- Two states that differ at most in bytes of PEND and TXB at or beyond their lengths (R37), and in bytes of FOUT at or beyond
the frame's length (R30). -/
structure SameButUnread (s t : State) : Prop where
  rest    : t = { s with block := { s.block with pend := t.block.pend, txb := t.block.txb, fout := t.block.fout } }
  size    : t.block.pend.length = s.block.pend.length ∧ t.block.txb.length = s.block.txb.length ∧
    t.block.fout.length = s.block.fout.length
  frame   : t.block.fout.take s.block.frameLen = s.block.fout.take s.block.frameLen
  pending : t.block.pending = s.block.pending
  payload : t.block.payload = s.block.payload

/-- A move made `d` microseconds later. -/
def shiftMove (d : Nat) : Move → Move
  | .host a       => .host a
  | .secondHost a => .secondHost a
  | .clock t      => .clock (t + d)
  | .fire         => .fire
  | .reset        => .reset

/-- The same system `d` microseconds later: the Clock, the times on the line record and in the schedule, and each timestamp
that a rule may still read, are shifted by `d` (R183). -/
structure ShiftedBy (d : Nat) (s t : State) : Prop where
  rest  : t = { s with
    block  := { s.block with tLastRx := t.block.tLastRx, tLastAct := t.block.tLastAct }
    clock  := s.clock + d
    line   := s.line.map fun e => { e with time := e.time + d }
    script := s.script.map (shiftMove d) }
  rxTime  : s.block.pendLen ≠ 0 → t.block.tLastRx = (s.block.tLastRx + d) % 2 ^ s.cfg.timeW
  actTime : s.block.actValid = true → t.block.tLastAct = (s.block.tLastAct + d) % 2 ^ s.cfg.timeW

end Sys2Proof.Machine
end

