-- ==== Sys2Proof/Certificates/Slice0/Obligations.lean ====
section
/-! DEFINITION. The statements for the provers. "The spec" is spec/; each docstring names the rule a statement formalises. -/

open Sys2Proof
open Sys2Proof.Machine
open Sys2Proof.Config

/-! ## Encoding -/

/-- 30_encoding.md sections 1 to 4: decoding the encoding of a well-formed command gives it back, for every operand byte. -/
def Obligations.DecodeOfEncode : Prop :=
  ∀ i : Instr, i.WellFormed → decode (encode i) = .ok i

/-- 30_encoding.md sections 1 to 4: a word that decodes is the encoding of what it decodes to, so that each legal word has one meaning and no bit of
it is dropped. -/
def Obligations.EncodeOfDecode : Prop :=
  ∀ (v : Word) (i : Instr), decode v = .ok i → encode i = v

/-- R74: a word is illegal exactly when at least one of its three clauses holds, and every illegal word written to CMD sets CMD_ERR and changes
nothing else. -/
def Obligations.IllegalWordsRejected : Prop :=
  ∀ v : Word,
    ((∃ e, decode v = .error e) ↔
      v.extractLsb' 16 16 ≠ 0#16 ∨
      v.extractLsb' 0 8 ∉ [0x00#8, 0x01#8, 0x02#8, 0x03#8, 0x04#8, 0x10#8, 0x11#8, 0x20#8, 0x21#8, 0x22#8] ∨
      (v.extractLsb' 0 8 ∈ [0x00#8, 0x01#8, 0x03#8, 0x10#8, 0x11#8, 0x20#8, 0x22#8] ∧ v.extractLsb' 8 8 ≠ 0#8)) ∧
    ∀ s : State, (∃ e, decode v = .error e) →
      perform (cmdWrite s.cfg v) s = .next { s with block := { s.block with sticky := s.block.sticky ||| 0x80#8 } }

/-- Exactly 7 + 3·256 words decode to a command: the inference 30_encoding.md marks "derived" after its decode function. -/
def Obligations.DecodableWordCount : Prop :=
  Set.ncard { v : Word | ∃ i, decode v = .ok i } = 775

/-- The example encodings of 30_encoding.md section 6 (marked "derived" there); and the words of the ten commands, written out, decode to the commands they stand for. -/
def Obligations.CommandWordsDecode : Prop :=
  encode (.crcByte 0x11#8) = 0x00001102#32 ∧ encode (.txPush 0x64#8) = 0x00006421#32 ∧ encode .rxPoll = 0x00000010#32 ∧
  decode 0x00000110#32 = .error .operandInFormatN ∧ decode 0x00010002#32 = .error .reservedBits ∧
  decode 0x00000005#32 = .error .reservedOp ∧
  decode 0x00000000#32 = .ok .nop ∧ decode 0x00000001#32 = .ok .crcInit ∧ decode 0x00005A02#32 = .ok (.crcByte 0x5A#8) ∧
  decode 0x00000003#32 = .ok .lrcInit ∧ decode 0x0000A504#32 = .ok (.lrcByte 0xA5#8) ∧ decode 0x00000010#32 = .ok .rxPoll ∧
  decode 0x00000011#32 = .ok .frameAck ∧ decode 0x00000020#32 = .ok .txClear ∧
  decode 0x0000FF21#32 = .ok (.txPush 0xFF#8) ∧ decode 0x00000022#32 = .ok .txSend

/-! ## Steps and command issue -/

/-- 43_control.md section 1, 20_memory.md section 4: where the next move is the host's write to CMD of a word that decodes, the step is that command's, made once the
move is taken from the schedule; so it is with a command placed by `withFetchWord`. -/
def Obligations.StepRunsTheCommand : Prop :=
  (∀ (s : State) (v : Word) (i : Instr) (rest : List Move),
    s.script = cmdWrite s.cfg v :: rest → decode v = .ok i → step s = exec i { s with script := rest }) ∧
  (∀ (s : State) (nbits w : Nat) (i : Instr),
    decodeTableWord nbits w = some i → step (s.withFetchWord nbits w) = exec i s)

/-- R162: an illegal command, and any command but NOP while a send is pending, sets CMD_ERR and changes nothing else. -/
def Obligations.IllTimedCommandsRejected : Prop :=
  ∀ (s : State) (v : Word),
    (∃ e, decode v = .error e) ∨ (s.block.txWait = true ∧ decode v ≠ .ok .nop) →
    perform (cmdWrite s.cfg v) s = .next { s with block := { s.block with sticky := s.block.sticky ||| 0x80#8 } }

/-- R163: with a bitrate of 0, RX_POLL and TX_SEND are rejected and STATUS.CFG_ERR reads 1; what every other command does does
not depend on the bitrate. -/
def Obligations.ZeroBitrateRejected : Prop :=
  (∀ s : State, s.block.bitrate = 0#32 →
    exec .rxPoll s = .next { s with block := { s.block with sticky := s.block.sticky ||| 0x80#8 } } ∧
    exec .txSend s = .next { s with block := { s.block with sticky := s.block.sticky ||| 0x80#8 } } ∧
    s.block.status.getLsbD 3 = true) ∧
  (∀ (s : State) (i : Instr) (v : Word), i ≠ .rxPoll → i ≠ .txSend →
    ∃ t, exec i s = .next t ∧
      exec i { s with block := { s.block with bitrate := v } } = .next { t with block := { t.block with bitrate := v } })

/-- R160: NOP changes nothing, is never rejected, and is the word 0 alone; the word 0x100 sets CMD_ERR. -/
def Obligations.NopChangesNothing : Prop :=
  (∀ s : State, exec .nop s = .next s ∧ perform (cmdWrite s.cfg 0x00000000#32) s = .next s ∧
    perform (cmdWrite s.cfg 0x00000100#32) s =
      .next { s with block := { s.block with sticky := s.block.sticky ||| 0x80#8 } }) ∧
  (∀ v : Word, decode v = .ok .nop ↔ v = 0x00000000#32)

/-- 60_exceptions.md section 1: the block never stops. A write of any word to CMD, any 32-bit access at a multiple of 4, any Clock step that is not
backwards, the sequencer's turn and a reset all answer a next state. That the sequencer's turn is a move where TX_FIRE is not
enabled, and then changes nothing, is the model's choice (log 8, DESIGN CHOICE). -/
def Obligations.BlockNeverStops : Prop :=
  (∀ (s : State) (v : Word), ∃ t, perform (cmdWrite s.cfg v) s = .next t) ∧
  (∀ (s : State) (off : Nat) (v : Word), off < 4096 → off % 4 = 0 →
    (∃ t, perform (rdMove s.cfg off) s = .next t) ∧ ∃ t, perform (wrMove s.cfg off v) s = .next t) ∧
  (∀ (s : State) (n : Nat), s.clock ≤ n → ∃ t, perform (.clock n) s = .next t) ∧
  (∀ s : State, (∃ t, perform .fire s = .next t) ∧ ∃ t, perform .reset s = .next t)

/-! ## Checksums -/

/-- crc16 starts at 0xFFFF and takes each byte by eight reflected shifts with 0xA001; its catalogue check value. The loop body is
one the spec marks as general knowledge (40_checksum.md section 1; log 13). -/
def Obligations.Crc16Function : Prop :=
  crc16 [] = 0xFFFF#16 ∧
  (∀ (l : List Byte) (x : Byte), crc16 (l ++ [x]) =
    (List.range 8).foldl (fun (c : Half) _ => if c.getLsbD 0 = true then (c >>> 1) ^^^ 0xA001#16 else c >>> 1)
      (crc16 l ^^^ x.setWidth 16)) ∧
  crc16 [0x31#8, 0x32#8, 0x33#8, 0x34#8, 0x35#8, 0x36#8, 0x37#8, 0x38#8, 0x39#8] = 0x4B37#16

/-- The law 40_checksum.md section 1 derives and 90_conflicts.md C1 keeps: a buffer followed by its own CRC, low byte first, has CRC 0; that is its own CRC again only where this is 0, as for
[FF FF]. -/
def Obligations.CrcResidue : Prop :=
  (∀ l : List Byte,
    crc16 (l ++ [(crc16 l).extractLsb' 0 8, (crc16 l).extractLsb' 8 8]) = 0x0000#16 ∧
    (crc16 (l ++ [(crc16 l).extractLsb' 0 8, (crc16 l).extractLsb' 8 8]) = crc16 l ↔ crc16 l = 0x0000#16)) ∧
  crc16 [0xFF#8, 0xFF#8] = 0x0000#16

/-- R95: lrc is the two's complement of the 8-bit sum. -/
def Obligations.LrcFunction : Prop :=
  ∀ l : List Byte, (lrc l).toNat = (256 - (l.map BitVec.toNat).sum % 256) % 256

/-- R91: CRC_INIT. -/
def Obligations.CrcInitEffect : Prop :=
  encode .crcInit = 0x00000001#32 ∧
  ∀ s : State,
    (s.block.txWait = false →
      exec .crcInit s = .next { s with block := { s.block with crcAcc := 0xFFFF#16 } } ∧
      perform (rdMove s.cfg 0x008) { s with block := { s.block with crcAcc := 0xFFFF#16 } } =
        .next { s with block := { s.block with crcAcc := 0xFFFF#16 }, readData := 0x0000FFFF#32 }) ∧
    (s.block.txWait = true →
      exec .crcInit s = .next { s with block := { s.block with sticky := s.block.sticky ||| 0x80#8 } })

/-- R92: CRC_BYTE. Every 16-bit accumulator is legal. -/
def Obligations.CrcByteEffect : Prop :=
  (∀ x : Byte, encode (.crcByte x) = 0x0000#16 ++ x ++ 0x02#8) ∧
  (∀ (s : State) (x : Byte),
    (s.block.txWait = false →
      exec (.crcByte x) s = .next { s with block := { s.block with crcAcc := crcStep s.block.crcAcc x } }) ∧
    (s.block.txWait = true →
      exec (.crcByte x) s = .next { s with block := { s.block with sticky := s.block.sticky ||| 0x80#8 } }))

/-- R96: LRC_INIT. -/
def Obligations.LrcInitEffect : Prop :=
  encode .lrcInit = 0x00000003#32 ∧
  ∀ s : State,
    (s.block.txWait = false →
      exec .lrcInit s = .next { s with block := { s.block with lrcSum := 0x00#8 } } ∧
      perform (rdMove s.cfg 0x00C) { s with block := { s.block with lrcSum := 0x00#8 } } =
        .next { s with block := { s.block with lrcSum := 0x00#8 }, readData := 0x00000000#32 }) ∧
    (s.block.txWait = true →
      exec .lrcInit s = .next { s with block := { s.block with sticky := s.block.sticky ||| 0x80#8 } })

/-- R97: LRC_BYTE; the sum wraps mod 256, and LRC_VALUE reads its negation mod 256. -/
def Obligations.LrcByteEffect : Prop :=
  (∀ x : Byte, encode (.lrcByte x) = 0x0000#16 ++ x ++ 0x04#8) ∧
  (∀ (s : State) (x : Byte),
    (s.block.txWait = false →
      exec (.lrcByte x) s = .next { s with
        block := { s.block with lrcSum := BitVec.ofNat 8 ((s.block.lrcSum.toNat + x.toNat) % 256) } }) ∧
    (s.block.txWait = true →
      exec (.lrcByte x) s = .next { s with block := { s.block with sticky := s.block.sticky ||| 0x80#8 } })) ∧
  (∀ s : State, perform (rdMove s.cfg 0x00C) s =
    .next { s with readData := BitVec.ofNat 32 ((256 - s.block.lrcSum.toNat) % 256) })

/-- The accumulator invariant 40_checksum.md section 2 derives: where `st.crc_acc` is the CRC of the bytes `l` fed so far, so it is after any move, of the bytes fed then; CRC_VALUE
reads it; it holds at reset of no bytes. -/
def Obligations.CrcAccumulatorTracksBytes : Prop :=
  State.reset.block.crcAcc = crc16 [] ∧
  ∀ (m : Move) (s t : State) (l : List Byte), s.block.crcAcc = crc16 l → perform m s = .next t →
    t.block.crcAcc = crc16 (crcFed m s l) ∧
    perform (rdMove t.cfg 0x008) t = .next { t with readData := (crc16 (crcFed m s l)).setWidth 32 }

/-- The accumulator invariant 40_checksum.md section 4 derives: where `st.lrc_sum` is the sum mod 256 of the bytes fed so far, so it is after any move; LRC_VALUE reads their lrc;
sum and lrc add up to 0 mod 256. -/
def Obligations.LrcAccumulatorTracksBytes : Prop :=
  State.reset.block.lrcSum.toNat = 0 ∧
  (∀ (m : Move) (s t : State) (l : List Byte),
    s.block.lrcSum.toNat = (l.map BitVec.toNat).sum % 256 → perform m s = .next t →
    t.block.lrcSum.toNat = ((lrcFed m s l).map BitVec.toNat).sum % 256 ∧
    perform (rdMove t.cfg 0x00C) t = .next { t with readData := (lrc (lrcFed m s l)).setWidth 32 }) ∧
  (∀ l : List Byte, ((l.map BitVec.toNat).sum + (lrc l).toNat) % 256 = 0)

/-- R100: a poll, a send and an enabled TX_FIRE neither read nor write `st.crc_acc`: with any other accumulator they do the same and leave
that one. -/
def Obligations.FramingIgnoresAccumulator : Prop :=
  ∀ (m : Move) (s : State),
    accepted m s = some .rxPoll ∨ accepted m s = some .txSend ∨ (m = .fire ∧ s.txFireEnabled = true) →
    ∃ t, perform m s = .next t ∧ t.block.crcAcc = s.block.crcAcc ∧
      ∀ c : Half, perform m { s with block := { s.block with crcAcc := c } } =
        .next { t with block := { t.block with crcAcc := c } }

/-- The pseudo-instructions CRC_BUF and LRC_BUF of 30_encoding.md section 6 with the effects 40_checksum.md sections 2 and 4 give
their commands (30_encoding.md marks its sentence on CRC_BUF "derived"): after CRC_BUF and LRC_BUF of a list on an idle block the accumulators are those of the list, and nothing else has
changed. -/
def Obligations.ChecksumBuffers : Prop :=
  ∀ (s : State) (l : List Byte), s.block.txWait = false →
    performAll (crcBuf s.cfg l) s = .next { s with block := { s.block with crcAcc := crc16 l } } ∧
    performAll (lrcBuf s.cfg l) s =
      .next { s with block := { s.block with lrcSum := BitVec.ofNat 8 (l.map BitVec.toNat).sum } }

/-! ## Spacing and time -/

/-- R110: the packet spacing, with any parameters and with the defaults; a bitrate above SPACING_NUM has spacing 0, so that
silence and the gate are at once there. -/
def Obligations.PacketSpacing : Prop :=
  (∀ s : State, s.block.bitrate ≠ 0#32 → s.pspace = (s.cfg.spacingNum / s.block.bitrate.toNat) * s.cfg.spacingMult) ∧
  (∀ v : Word, v ≠ 0#32 → packetSpacing defaults v = (10000000 / v.toNat) * 4) ∧
  (∀ s : State, s.cfg.spacingNum < s.block.bitrate.toNat → s.pspace = 0 ∧ s.rxSilent = true ∧ s.txGateOpen = true)

/-- The arithmetic laws of 40_checksum.md section 5 with the ranges of 00_scope.md section 4: with parameters in range the spacing and the transmit guard fit 32 bits, so SPACING reads the whole spacing. -/
def Obligations.SpacingNeverOverflows : Prop :=
  ∀ s : State, s.cfg.legal = true →
    s.cfg.guardMult * s.pspace < 2 ^ 32 ∧
    ∃ v : Word, perform (rdMove s.cfg 0x014) s = .next { s with readData := v } ∧ v.toNat = s.pspace

/-- 41_rx_boundary.md section 1, in the reading of log 7 (DEDUCED: the Clock's count is unbounded, the block sees TIME_W bits):
elapsed time is subtraction mod 2^TIME_W of the Clock's low bits, with its aliasing: a silence of a whole 2^TIME_W
longer reads the same. -/
def Obligations.ElapsedIsModular : Prop :=
  (∀ (s : State) (t : Nat), t < 2 ^ s.cfg.timeW →
    (s.elapsed t : Int) = ((s.clock : Int) - (t : Int)) % (2 ^ s.cfg.timeW : Nat)) ∧
  (∀ (s : State) (t : Nat), ({ s with clock := s.clock + 2 ^ s.cfg.timeW } : State).elapsed t = s.elapsed t)

/-- 60_exceptions.md section 6: a Clock step never goes back; it changes the Clock alone. -/
def Obligations.ClockIsMonotonic : Prop :=
  ∀ (s : State) (n : Nat),
    (s.clock ≤ n → perform (.clock n) s = .next { s with clock := n }) ∧
    (n < s.clock → perform (.clock n) s = .fault (.clockRegression s.clock n))

/-- 60_exceptions.md section 6: no rule depends on the Clock's absolute value. The system made `d` microseconds later makes the same move to the same
system `d` microseconds later, and stops where it stops. -/
def Obligations.OnlyTimeDifferencesMatter : Prop :=
  ∀ (d : Nat) (m : Move) (s t : State), s.Inv → ShiftedBy d s t →
    (∀ s', perform m s = .next s' → ∃ t', perform (shiftMove d m) t = .next t' ∧ ShiftedBy d s' t') ∧
    ((∃ t', perform (shiftMove d m) t = .next t') → ∃ s', perform m s = .next s')

/-! ## Receive -/

/-- R114: an accepted poll that gets bytes appends them to PEND in line order, drops and flags what does not fit, takes its
`now` as both timestamps, counts all it read, and never completes a candidate, however long the silence before it. -/
def Obligations.PollAppendsBytes : Prop :=
  ∀ (s : State) (new : List Byte), s.Inv → s.block.txWait = false → s.block.bitrate ≠ 0#32 →
    s.transportRead.1 = new → new ≠ [] →
    ∃ t, exec .rxPoll s = .next t ∧
      t.block.pending = (s.block.pending ++ new).take s.cfg.pendingCap ∧
      t.block.pend.length = s.block.pend.length ∧
      t = { s.transportRead.2 with block := { s.block with
        pend := t.block.pend
        pendLen := min (s.block.pendLen + new.length) s.cfg.pendingCap
        pendOvf := s.block.pendOvf || decide (s.cfg.pendingCap < s.block.pendLen + new.length)
        sticky := if s.cfg.pendingCap < s.block.pendLen + new.length then s.block.sticky ||| 0x10#8 else s.block.sticky
        tLastRx := s.now
        tLastAct := s.now
        actValid := true
        rxResult := BitVec.ofNat 16 new.length ++ 0x000#12 ++ 1#4 } }

/-- R115: an accepted poll that gets no bytes is IDLE with PEND empty, WAITING inside the gap, and after silence of at least
the spacing resets PEND whatever the outcome; no timestamp changes. -/
def Obligations.PollWithoutBytes : Prop :=
  ∀ s : State, s.block.txWait = false → s.block.bitrate ≠ 0#32 → s.transportRead.1 = [] →
    (s.block.pendLen = 0 →
      exec .rxPoll s = .next { s.transportRead.2 with block := { s.block with rxResult := 0x00000002#32 } }) ∧
    (s.block.pendLen ≠ 0 → s.elapsed s.block.tLastRx < s.pspace →
      exec .rxPoll s = .next { s.transportRead.2 with block := { s.block with rxResult := 0x00000003#32 } }) ∧
    (s.block.pendLen ≠ 0 → s.pspace ≤ s.elapsed s.block.tLastRx →
      ∃ t, exec .rxPoll s = .next t ∧ t.block.pendLen = 0 ∧ t.block.pendOvf = false ∧
        t.block.tLastRx = s.block.tLastRx ∧ t.block.tLastAct = s.block.tLastAct ∧
        t = { s.transportRead.2 with block := { s.block with
          pendLen := 0
          pendOvf := false
          fout := t.block.fout
          frameLen := t.block.frameLen
          frameValid := t.block.frameValid
          sticky := t.block.sticky
          rxResult := t.block.rxResult } })

/-- R116: a completed candidate that lost bytes is discarded with code 7 and no flag; otherwise one of 3 bytes or fewer is
discarded with RX_SHORT and code 5, whatever its bytes. -/
def Obligations.PollDiscardsShortOrLost : Prop :=
  ∀ s : State, s.Inv → s.block.txWait = false → s.block.bitrate ≠ 0#32 → s.transportRead.1 = [] →
    s.block.pendLen ≠ 0 → s.pspace ≤ s.elapsed s.block.tLastRx →
    (s.block.pendOvf = true →
      exec .rxPoll s = .next { s.transportRead.2 with block := { s.block with
        pendLen := 0, pendOvf := false, rxResult := 0x00000007#32 } }) ∧
    (s.block.pendOvf = false → s.block.pendLen ≤ 3 →
      exec .rxPoll s = .next { s.transportRead.2 with block := { s.block with
        pendLen := 0, sticky := s.block.sticky ||| 0x04#8, rxResult := 0x00000005#32 } })

/-- R117, R118: a completed candidate of at least 4 bytes that lost none is compared with its own trailing CRC, low byte first,
over the rest alone. On a match the rest is latched in FOUT, over any unacknowledged frame with FRAME_OVR; on a mismatch it is
discarded with RX_CRC and FOUT is untouched. -/
def Obligations.PollJudgesCrc : Prop :=
  ∀ (s : State) (m : Nat), s.Inv → s.block.txWait = false → s.block.bitrate ≠ 0#32 → s.transportRead.1 = [] →
    s.pspace ≤ s.elapsed s.block.tLastRx → s.block.pendOvf = false → s.block.pendLen = m → 4 ≤ m →
    (crc16 (s.block.pend.take (m - 2)) =
        (s.block.pend.getD (m - 2) 0#8).setWidth 16 ||| ((s.block.pend.getD (m - 1) 0#8).setWidth 16 <<< 8) →
      exec .rxPoll s = .next { s.transportRead.2 with block := { s.block with
        pendLen := 0
        fout := s.block.pend.take (m - 2) ++ s.block.fout.drop (m - 2)
        frameLen := m - 2
        frameValid := true
        sticky := if s.block.frameValid = true then s.block.sticky ||| 0x20#8 else s.block.sticky
        rxResult := 0x00000004#32 } }) ∧
    (crc16 (s.block.pend.take (m - 2)) ≠
        (s.block.pend.getD (m - 2) 0#8).setWidth 16 ||| ((s.block.pend.getD (m - 1) 0#8).setWidth 16 <<< 8) →
      exec .rxPoll s = .next { s.transportRead.2 with block := { s.block with
        pendLen := 0, sticky := s.block.sticky ||| 0x08#8, rxResult := 0x00000006#32 } })

/-- The frame validity law 41_rx_boundary.md section 2 derives: bytes delivered by any polls after PEND was empty, with polls that
get none anywhere among them as long as none finds silence, then silence and a poll without bytes. Before that poll no frame is
output; it outputs the candidate without its CRC exactly if the candidate has at least 4 bytes, lost none, and ends in the CRC
of the rest; otherwise no frame is output. -/
def Obligations.FramesAreExactlyTheValidCandidates : Prop :=
  ∀ (s : State) (ds : List (Nat × List Byte)) (last : Nat) (rest : List (List Byte)) (c : List Byte),
    s.Inv → s.block.txWait = false → s.block.bitrate ≠ 0#32 → s.block.pendLen = 0 →
    (∀ d ∈ ds, d.2.length ≤ s.cfg.readMax) → timesFrom s.clock ds last →
    NoSilenceWithin s.cfg.timeW s.pspace none ds →
    s.transport.reads = ds.map Prod.snd ++ [] :: rest →
    (∀ t, lastBytesAt none ds = some t → s.pspace ≤ (last - t) % 2 ^ s.cfg.timeW) →
    c = ds.flatMap Prod.snd → c ≠ [] →
    ∃ u t, performAll (pollEach s.cfg ds) s = .next u ∧ performAll (pollAt s.cfg last) u = .next t ∧
      (u.block.fout = s.block.fout ∧ u.block.frameLen = s.block.frameLen ∧ u.block.frameValid = s.block.frameValid) ∧
      t.block.pendLen = 0 ∧
      (if 4 ≤ c.length ∧ c.length ≤ s.cfg.pendingCap ∧
          crc16 (c.take (c.length - 2)) =
            (c.getD (c.length - 2) 0#8).setWidth 16 ||| ((c.getD (c.length - 1) 0#8).setWidth 16 <<< 8)
        then t.block.frameValid = true ∧ t.block.frameLen = c.length - 2 ∧
          t.block.fout.take (c.length - 2) = c.take (c.length - 2) ∧ t.block.rxResult = 0x00000004#32
        else t.block.fout = s.block.fout ∧ t.block.frameLen = s.block.frameLen ∧
          t.block.frameValid = s.block.frameValid ∧
          t.block.rxResult ∈ [0x00000005#32, 0x00000006#32, 0x00000007#32])

/-- R121: FRAME_ACK releases the frame and keeps FOUT's bytes; every FRAME_DATA word reads 0 afterwards; with no frame latched
it changes nothing. -/
def Obligations.FrameAckEffect : Prop :=
  encode .frameAck = 0x00000011#32 ∧
  ∀ s : State,
    (s.block.txWait = false →
      exec .frameAck s = .next { s with block := { s.block with frameValid := false, frameLen := 0 } } ∧
      (s.Inv → s.block.frameValid = false → exec .frameAck s = .next s) ∧
      (s.cfg.legal = true → ∀ i, i < s.cfg.foutWords →
        perform (rdMove s.cfg (0x100 + 4 * i)) { s with block := { s.block with frameValid := false, frameLen := 0 } } =
          .next { s with block := { s.block with frameValid := false, frameLen := 0 }, readData := 0x00000000#32 })) ∧
    (s.block.txWait = true →
      exec .frameAck s = .next { s with block := { s.block with sticky := s.block.sticky ||| 0x80#8 } })

/-! ## Transmit -/

/-- R142: TX_CLEAR. -/
def Obligations.TxClearEffect : Prop :=
  encode .txClear = 0x00000020#32 ∧
  ∀ s : State,
    (s.block.txWait = false →
      exec .txClear s = .next { s with block := { s.block with txLen := 0 } } ∧
      perform (rdMove s.cfg 0x024) { s with block := { s.block with txLen := 0 } } =
        .next { s with block := { s.block with txLen := 0 }, readData := 0x00000000#32 }) ∧
    (s.block.txWait = true →
      exec .txClear s = .next { s with block := { s.block with sticky := s.block.sticky ||| 0x80#8 } })

/-- R143: TX_PUSH appends where TXB has room, else drops the byte and sets TX_OVF; with TX_CAP = 0 every push overflows. -/
def Obligations.TxPushEffect : Prop :=
  (∀ x : Byte, encode (.txPush x) = 0x0000#16 ++ x ++ 0x21#8) ∧
  ∀ (s : State) (x : Byte),
    (s.block.txWait = false → s.block.txLen < s.cfg.txCap →
      exec (.txPush x) s = .next { s with block := { s.block with
        txb := s.block.txb.set s.block.txLen x, txLen := s.block.txLen + 1 } }) ∧
    (s.block.txWait = false → s.cfg.txCap ≤ s.block.txLen →
      exec (.txPush x) s = .next { s with block := { s.block with sticky := s.block.sticky ||| 0x40#8 } }) ∧
    (s.block.txWait = true →
      exec (.txPush x) s = .next { s with block := { s.block with sticky := s.block.sticky ||| 0x80#8 } })

/-- R79: TX_LOAD of a list on an idle block makes it the payload, cut to TX_CAP bytes, with TX_OVF where bytes were dropped;
nothing else changes. -/
def Obligations.TxLoadBuildsPayload : Prop :=
  ∀ (s : State) (l : List Byte), s.Inv → s.block.txWait = false →
    ∃ t, performAll (txLoad s.cfg l) s = .next t ∧ t.block.payload = l.take s.cfg.txCap ∧
      t.block.txb.length = s.block.txb.length ∧
      t = { s with block := { s.block with
        txb := t.block.txb
        txLen := min l.length s.cfg.txCap
        sticky := if s.cfg.txCap < l.length then s.block.sticky ||| 0x40#8 else s.block.sticky } }

/-- R146: TX_SEND on an idle block with a bitrate only sets the pending send, which STATUS.BUSY shows. TX_FIRE is enabled from
then on exactly while the gate is open, so at once where it is open already. A second TX_SEND, or one with a bitrate of 0, is
rejected. -/
def Obligations.TxSendEffect : Prop :=
  encode .txSend = 0x00000022#32 ∧
  ∀ s : State,
    (s.block.txWait = false → s.block.bitrate ≠ 0#32 →
      exec .txSend s = .next { s with block := { s.block with txWait := true } } ∧
      ({ s.block with txWait := true } : Block).status.getLsbD 0 = true ∧
      ({ s with block := { s.block with txWait := true } } : State).txFireEnabled = s.txGateOpen) ∧
    (s.block.txWait = true ∨ s.block.bitrate = 0#32 →
      exec .txSend s = .next { s with block := { s.block with sticky := s.block.sticky ||| 0x80#8 } })

/-- 42_tx_framer.md sections 1 and 3: the gate is open without a real activity time, or once at least the guard has elapsed since
it. The sequencer's turn with no send pending or a closed gate changes nothing, the send goes on holding (log 8, DESIGN CHOICE).The
corner case section 3 marks "derived" at TX_SEND: the send of an empty payload puts FF FF on the line where the transport takes both. -/
def Obligations.GateAndHold : Prop :=
  ∀ s : State,
    (s.txGateOpen = true ↔
      s.block.actValid = false ∨ s.cfg.guardMult * s.pspace ≤ s.elapsed s.block.tLastAct) ∧
    (¬(s.block.txWait = true ∧ s.txGateOpen = true) → perform .fire s = .next s) ∧
    (s.block.txLen = 0 → s.txFireEnabled = true → (s.transportWrite 2).1 = 2 →
      ∃ t, perform .fire s = .next t ∧ t.line = s.line ++ [{ time := s.clock, bytes := [0xFF#8, 0xFF#8] }] ∧
        t.block.sticky = s.block.sticky ||| 0x01#8 ∧ t.quiescent)

/-- R141, R148: an enabled TX_FIRE writes payload ++ CRC once. A whole write sets TX_DONE, a shorter one TX_ERR; the
activity time moves exactly where a byte went out; those bytes are on the line; the payload is gone and the block idle, so that a
later TX_SEND is accepted as usual. -/
def Obligations.TxFireEffect : Prop :=
  ∀ (s s' : State) (w : List Byte) (k : Nat),
    s.block.txWait = true → s.txGateOpen = true →
    w = s.block.txb.take s.block.txLen ++
      [(crc16 (s.block.txb.take s.block.txLen)).extractLsb' 0 8, (crc16 (s.block.txb.take s.block.txLen)).extractLsb' 8 8] →
    s.transportWrite w.length = (k, s') →
    k ≤ w.length ∧ (s.Inv → w.length = s.block.txLen + 2) ∧
    (1 ≤ k → perform .fire s = .next { s' with
      line := s.line ++ [{ time := s.clock, bytes := w.take k }]
      block := { s.block with
        sticky := s.block.sticky ||| (if k = w.length then 0x01#8 else 0x02#8)
        tLastAct := s.now
        actValid := true
        txLen := 0
        txWait := false } }) ∧
    (k = 0 → perform .fire s = .next { s' with block := { s.block with
        sticky := s.block.sticky ||| 0x02#8
        txLen := 0
        txWait := false } }) ∧
    (s.block.bitrate ≠ 0#32 → ∀ t, perform .fire s = .next t →
      exec .txSend t = .next { t with block := { t.block with txWait := true } })

/-- R38: an accepted TX_SEND sets the pending send, TX_FIRE and reset clear it, and nothing else changes it. While it is
pending no command but NOP is accepted, and every move but TX_FIRE and reset leaves the whole block as it is but for the sticky
flags, BITRATE writes included. -/
def Obligations.PendingSendFreezesBlock : Prop :=
  ∀ (m : Move) (s t : State), perform m s = .next t →
    (accepted m s = some .txSend → t.block.txWait = true) ∧
    (s.block.txWait = false → t.block.txWait = true → accepted m s = some .txSend) ∧
    (m = .fire → s.txFireEnabled = true → t.block.txWait = false) ∧
    (m = .reset → t.block.txWait = false) ∧
    (s.block.txWait = true → t.block.txWait = false → m = .fire ∨ m = .reset) ∧
    (s.block.txWait = true → accepted m s = none ∨ accepted m s = some .nop) ∧
    (s.block.txWait = true → m ≠ .fire → m ≠ .reset →
      t.block = { s.block with sticky := t.block.sticky } ∧ t.transport = s.transport ∧ t.line = s.line)

/-- 42_tx_framer.md section 3: transmit and receive share only `st.t_last_act`. A TX_SEND and a TX_FIRE neither read nor write the pending buffer,
its timestamp, the latched frame or the bytes waiting in the transport: with any others they do the same and leave those. The
sequencer's turn is a move also where TX_FIRE is not enabled, by the model's choice (log 8, DESIGN CHOICE). -/
def Obligations.SendIgnoresReceiver : Prop :=
  ∀ (m : Move) (s : State), accepted m s = some .txSend ∨ m = .fire →
    ∃ t, perform m s = .next t ∧
      ∀ (pend fout : List Byte) (pendLen frameLen tLastRx : Nat) (pendOvf frameValid : Bool) (reads : List (List Byte)),
        perform m { s with
          transport := { s.transport with reads := reads }
          block := { s.block with pend := pend, fout := fout, pendLen := pendLen, frameLen := frameLen,
                                  tLastRx := tLastRx, pendOvf := pendOvf, frameValid := frameValid } } =
        .next { t with
          transport := { t.transport with reads := reads }
          block := { t.block with pend := pend, fout := fout, pendLen := pendLen, frameLen := frameLen,
                                  tLastRx := tLastRx, pendOvf := pendOvf, frameValid := frameValid } }

/-- The spacing guarantee 42_tx_framer.md section 3 derives: from a TX_FIRE that put a byte on the line, or a poll that got one, to any later TX_FIRE, whether or not it puts
one, with no reset between, at least the guard of the second acceptance passes. -/
def Obligations.SpacingGuarantee : Prop :=
  ∀ (s0 s1 s2 : State) (m : Move) (ms : List Move), s0.Inv →
    (m = .fire ∧ perform m s0 = .next s1 ∧ s1.line ≠ s0.line) ∨
      (accepted m s0 = some .rxPoll ∧ s0.transportRead.1 ≠ [] ∧ perform m s0 = .next s1) →
    .reset ∉ ms → performAll ms s1 = .next s2 → s2.txFireEnabled = true →
    s0.clock + s2.cfg.guardMult * s2.pspace ≤ s2.clock

/-- The bounded wait 42_tx_framer.md section 3 derives: once the Clock has advanced by the guard while a send waits, the gate is open, whatever else was done, as long as the
time since the last activity has not wrapped its TIME_W bits (the wrap is log 7's reading of 41_rx_boundary.md section 1). -/
def Obligations.BoundedWait : Prop :=
  ∀ (s t : State) (ms : List Move), s.Inv → s.block.txWait = true → .fire ∉ ms → .reset ∉ ms →
    performAll ms s = .next t → s.clock + s.cfg.guardMult * s.pspace ≤ t.clock →
    s.elapsed s.block.tLastAct + (t.clock - s.clock) < 2 ^ s.cfg.timeW →
    t.txFireEnabled = true

/-- The progress assumptions of 60_exceptions.md section 6: in an endless run in which the Clock is unbounded and TX_FIRE weakly fair, a pending send ends, by its TX_FIRE or by a
reset that abandons it. A third premise is that the gate is open once the guard has passed, for as long as the send waits: the bounded wait says so
until the elapsed time wraps its TIME_W bits, and with log 7's Clock, which passes every bound, that wrap comes (DEDUCED). -/
def Obligations.PendingSendEndsByFireOrReset : Prop :=
  ∀ (moves : Nat → Move) (run : Nat → State) (n : Nat),
    AgentRun moves run → ClockUnbounded run → FireWeaklyFair moves run →
    (∀ m, n ≤ m → (∀ k, n ≤ k → k ≤ m → (run k).block.txWait = true) →
      (run n).clock + (run n).cfg.guardMult * (run n).pspace ≤ (run m).clock → (run m).txGateOpen = true) →
    (run n).block.txWait = true →
    ∃ m, n ≤ m ∧ (∀ k, n ≤ k → k ≤ m → (run k).block.txWait = true) ∧ (run (m + 1)).quiescent ∧
      ((moves m = .fire ∧ (run m).txFireEnabled = true) ∨ moves m = .reset)

/-- The round trip V-RT-1 that 95_test_vectors.md section 2.7 derives: what one instance sends whole, delivered to another by any polls, with polls that get no bytes anywhere
among them as long as none finds silence, and with silence after, comes out as its frame; a payload of fewer than 2 bytes is discarded as short. -/
def Obligations.SendThenReceiveRoundTrip : Prop :=
  ∀ (a a' r : State) (p : List Byte) (ds : List (Nat × List Byte)) (last : Nat) (rest : List (List Byte)) (e : Sent),
    a.txFireEnabled = true → a.block.payload = p → (a.transportWrite (p.length + 2)).1 = p.length + 2 →
    perform .fire a = .next a' → a'.line = a.line ++ [e] →
    p.length ≤ r.cfg.foutCap → r.Inv → r.block.txWait = false → r.block.bitrate ≠ 0#32 → r.block.pendLen = 0 →
    (∀ d ∈ ds, d.2.length ≤ r.cfg.readMax) → timesFrom r.clock ds last →
    NoSilenceWithin r.cfg.timeW r.pspace none ds →
    r.transport.reads = ds.map Prod.snd ++ [] :: rest →
    (∀ t, lastBytesAt none ds = some t → r.pspace ≤ (last - t) % 2 ^ r.cfg.timeW) →
    ds.flatMap Prod.snd = e.bytes →
    ∃ t, performAll (pollEach r.cfg ds ++ pollAt r.cfg last) r = .next t ∧
      (2 ≤ p.length → t.block.frameValid = true ∧ t.block.frameLen = p.length ∧ t.block.fout.take p.length = p ∧
        t.block.rxResult = 0x00000004#32) ∧
      (p.length ≤ 1 → t.block.frameValid = r.block.frameValid ∧ t.block.fout = r.block.fout ∧
        t.block.rxResult = 0x00000005#32)

/-! ## Registers and host accesses -/

/-- 10_state.md sections 2 and 3, 20_memory.md section 6: what a 32-bit read of every aligned offset of the window returns; the block, the Clock, the transport and the
line are unchanged. -/
def Obligations.RegisterReads : Prop :=
  ∀ (s : State) (off : Nat), off < 4096 → off % 4 = 0 →
    perform (rdMove s.cfg off) s = .next { s with readData :=
      (if off = 0x000 then 0x00000000#32
      else if off = 0x004 then s.block.status
      else if off = 0x008 then s.block.crcAcc.setWidth 32
      else if off = 0x00C then BitVec.ofNat 32 ((256 - s.block.lrcSum.toNat) % 256)
      else if off = 0x010 then s.block.bitrate
      else if off = 0x014 then
        BitVec.ofNat 32 (if s.block.bitrate = 0#32 then 0
          else (s.cfg.spacingNum / s.block.bitrate.toNat) * s.cfg.spacingMult)
      else if off = 0x018 then BitVec.ofNat 32 s.block.pendLen
      else if off = 0x01C then s.block.rxResult
      else if off = 0x020 then BitVec.ofNat 32 s.block.frameLen
      else if off = 0x024 then BitVec.ofNat 32 s.block.txLen
      else if off = 0x028 then BitVec.ofNat 16 s.cfg.txCap ++ BitVec.ofNat 16 s.cfg.pendingCap
      else if 0x100 ≤ off ∧ off < 0x100 + 4 * s.cfg.foutWords then s.block.frameWord ((off - 0x100) / 4)
      else 0x00000000#32) }

/-- 10_state.md section 3, STATUS: every bit, and the effect of a write: it clears the sticky bits written as 1 and nothing else. -/
def Obligations.StatusRegister : Prop :=
  (∀ (s : State) (k : Nat), k < 32 →
    s.block.status.getLsbD k =
      if k = 0 then s.block.txWait
      else if k = 1 then s.block.frameValid
      else if k = 2 then decide (s.block.pendLen ≠ 0)
      else if k = 3 then decide (s.block.bitrate = 0#32)
      else if 8 ≤ k ∧ k ≤ 15 then s.block.sticky.getLsbD (k - 8)
      else false) ∧
  (∀ (s : State) (v : Word),
    perform (wrMove s.cfg 0x004 v) s =
      .next { s with block := { s.block with sticky := s.block.sticky &&& ~~~(v.extractLsb' 8 8) } })

/-- R30: byte j of FRAME_DATA[i] is FOUT[4i+j] below the frame's length and 0x00 beyond; a write to it is ignored. -/
def Obligations.FrameDataWindow : Prop :=
  ∀ (s : State) (i j : Nat) (v : Word), s.cfg.legal = true → i < s.cfg.foutWords → j < 4 →
    (∃ w : Word, perform (rdMove s.cfg (0x100 + 4 * i)) s = .next { s with readData := w } ∧
      w.extractLsb' (8 * j) 8 = if 4 * i + j < s.block.frameLen then s.block.fout.getD (4 * i + j) 0#8 else 0x00#8) ∧
    perform (wrMove s.cfg (0x100 + 4 * i) v) s = .next s

/-- R32: BITRATE is set by a write of any value while no send is pending, and read back; while one is, the write is ignored with
CMD_ERR. CFG_ERR reads 1 exactly for 0, and RX_POLL and TX_SEND are then rejected. Reset sets BITRATE_RESET, by default 0. -/
def Obligations.BitrateRegister : Prop :=
  (∀ (s : State) (v : Word),
    (s.block.txWait = false →
      perform (wrMove s.cfg 0x010 v) s = .next { s with block := { s.block with bitrate := v } }) ∧
    (s.block.txWait = true →
      perform (wrMove s.cfg 0x010 v) s =
        .next { s with block := { s.block with sticky := s.block.sticky ||| 0x80#8 } }) ∧
    perform (rdMove s.cfg 0x010) s = .next { s with readData := s.block.bitrate } ∧
    (s.block.status.getLsbD 3 = true ↔ s.block.bitrate = 0#32) ∧
    (s.block.bitrate = 0#32 →
      exec .rxPoll s = .next { s with block := { s.block with sticky := s.block.sticky ||| 0x80#8 } } ∧
      exec .txSend s = .next { s with block := { s.block with sticky := s.block.sticky ||| 0x80#8 } }) ∧
    ∃ t, perform .reset s = .next t ∧ t.block.bitrate = s.cfg.bitrateReset) ∧
  defaults.bitrateReset = 0#32

/-- R41: a read of any offset changes nothing in the block, and reserved offsets read 0; a write to any offset but CMD, STATUS
and BITRATE changes nothing at all. -/
def Obligations.ReadsAndIgnoredWrites : Prop :=
  ∀ (s : State) (off : Nat) (v : Word), s.cfg.legal = true → off < 4096 → off % 4 = 0 →
    (∃ w, perform (rdMove s.cfg off) s = .next { s with readData := w } ∧
      ((0x02C ≤ off ∧ off ≤ 0x0FC) ∨ 0x100 + 4 * s.cfg.foutWords ≤ off → w = 0x00000000#32)) ∧
    (off ≠ 0x000 → off ≠ 0x004 → off ≠ 0x010 → perform (wrMove s.cfg off v) s = .next s)

/-- R52: an access in the window that is not 32 bits wide at a multiple of 4 is BusAccessFault, read or write. -/
def Obligations.NarrowOrMisalignedFaults : Prop :=
  ∀ (s : State) (off width : Nat) (v : Word), off < 4096 → width ≠ 4 ∨ off % 4 ≠ 0 →
    perform (.host (.read (s.cfg.base + off) width)) s = .fault (.busAccessFault off width) ∧
    perform (.host (.write (s.cfg.base + off) width v)) s = .fault (.busAccessFault off width)

/-- 20_memory.md section 1 with log 9: an access outside the window, which is not the block's, stops the model by name (the model's own fault). -/
def Obligations.OutsideWindowFaults : Prop :=
  ∀ (s : State) (addr width : Nat) (v : Word), addr < s.cfg.base ∨ s.cfg.base + 4096 ≤ addr →
    perform (.host (.read addr width)) s = .fault (.outsideWindow addr) ∧
    perform (.host (.write addr width v)) s = .fault (.outsideWindow addr)

/-- R65: an access of a second host is refused, in every state. -/
def Obligations.SecondHostRefused : Prop :=
  ∀ (s : State) (a : Access), perform (.secondHost a) s = .refused .multiHostRefused

/-! ## Whole-machine rules -/

/-- 60_exceptions.md sections 1 and 2: the flags one move can set. Apart from a reset and a STATUS write, a move sets no flag, or CMD_ERR for a rejected
command or a BITRATE write while busy, or one of the receive flags for an accepted poll, or TX_OVF for an accepted push to a
full TXB, or one of TX_DONE and TX_ERR for a TX_FIRE. -/
def Obligations.EventsOfOneMove : Prop :=
  ∀ (m : Move) (s t : State), perform m s = .next t →
    m = .reset ∨ (∃ v, m = wrMove s.cfg 0x004 v) ∨
    t.block.sticky = s.block.sticky ∨
    (t.block.sticky = s.block.sticky ||| 0x80#8 ∧
      (((∃ v, commandWord m s = some v) ∧ accepted m s = none) ∨
        (s.block.txWait = true ∧ ∃ v, m = wrMove s.cfg 0x010 v))) ∨
    (accepted m s = some .rxPoll ∧ ∃ f ∈ [0x04#8, 0x08#8, 0x10#8, 0x20#8], t.block.sticky = s.block.sticky ||| f) ∨
    ((∃ x, accepted m s = some (.txPush x)) ∧ s.cfg.txCap ≤ s.block.txLen ∧
      t.block.sticky = s.block.sticky ||| 0x40#8) ∨
    (m = .fire ∧ s.txFireEnabled = true ∧ ∃ f ∈ [0x01#8, 0x02#8], t.block.sticky = s.block.sticky ||| f)

/-- 60_exceptions.md section 3: a sticky flag falls only by a host write of 1 to its STATUS bit or by reset; RX_RESULT changes only by an accepted
RX_POLL or by reset. -/
def Obligations.FlagsFallOnlyByHostOrReset : Prop :=
  ∀ (m : Move) (s t : State), perform m s = .next t →
    (∀ k, k < 8 → s.block.sticky.getLsbD k = true → t.block.sticky.getLsbD k = false →
      m = .reset ∨ ∃ v : Word, m = wrMove s.cfg 0x004 v ∧ v.getLsbD (8 + k) = true) ∧
    (t.block.rxResult ≠ s.block.rxResult → m = .reset ∨ accepted m s = some .rxPoll)

/-- 00_scope.md section 4, 20_memory.md section 1, 60_exceptions.md section 6: no step changes a parameter, turns the Clock back, or takes anything back from the line. -/
def Obligations.StepKeepsParametersAndHistory : Prop :=
  ∀ s t : State, step s = .next t → t.cfg = s.cfg ∧ s.clock ≤ t.clock ∧ s.line <+: t.line

/-- The invariant (10_state.md R27 to R37 and the rules that relate the elements) is kept by every step. -/
def Obligations.StepKeepsInv : Prop :=
  ∀ s t : State, s.Inv → step s = .next t → t.Inv

/-- The invariant holds at reset. -/
def Obligations.ResetHasInv : Prop := State.reset.Inv

/-- The inference 10_state.md section 4 marks "derived": bytes of PEND and TXB at or beyond their lengths are never observable; by 10_state.md section 3
(FRAME_DATA) nor are bytes of FOUT at or beyond the frame's length, so that it cannot be seen whether FRAME_ACK clears them (log 14). Two states that differ at most there step alike,
to states that differ at most there, and the host reads the same value in both. -/
def Obligations.UnreadBytesNeverObserved : Prop :=
  ∀ s t : State, s.Inv → SameButUnread s t →
    AnswersAgree (fun s' t' => SameButUnread s' t' ∧ s'.readData = t'.readData ∧ s'.line = t'.line) (step s) (step t)

/-! ## Reset -/

/-- R190: the reset input sets every element whose value the rule gives, in one step, from any state, at the Clock's value then;
the transport's bytes, the line and the other agents are untouched, and a pending send is abandoned. With the defaults, right
after reset STATUS reads 8, CRC_VALUE 0xFFFF, CAPS 0x00FE0100, and every other offset 0. -/
def Obligations.ResetSetsEveryElement : Prop :=
  (∀ s : State, ∃ t, perform .reset s = .next t ∧
    t = { s with block := { t.block with
      crcAcc := 0xFFFF#16
      lrcSum := 0x00#8
      pendLen := 0
      pendOvf := false
      fout := List.replicate s.cfg.foutCap 0x00#8
      frameLen := 0
      frameValid := false
      txLen := 0
      bitrate := s.cfg.bitrateReset
      tLastRx := 0
      tLastAct := if s.cfg.resetGate = .armed then s.now else 0
      actValid := decide (s.cfg.resetGate = .armed)
      txWait := false
      sticky := 0x00#8
      rxResult := 0x00000000#32 } }) ∧
  (∀ off, off < 4096 → off % 4 = 0 →
    perform (rdMove State.reset.cfg off) State.reset = .next { State.reset with readData :=
      (if off = 0x004 then 0x00000008#32 else if off = 0x008 then 0x0000FFFF#32
      else if off = 0x028 then 0x00FE0100#32 else 0x00000000#32) })

/-! ## Host programs -/

/-- The two pseudo-instructions of 30_encoding.md section 6 that decide by what they read. WAIT_IDLE, among any moves of the other agents: while
STATUS reads BUSY the host reads it again; the first read with bit 0 clear ends the program, and the block is then idle; the
reads change nothing. READ_FRAME on an idle block, with any Clock steps before each access: the host reads the frame's length n,
then (n+3) div 4 frame words, which hold exactly the frame's bytes, and the frame is then released. How a host program runs
among the agents is the model's (log 22, DESIGN CHOICE). -/
def Obligations.WaitIdleAndReadFrame : Prop :=
  (∀ (s u : State) (between : List Move) (others : List (List Move)), performAll between s = .next u →
    runHost (waitIdle s.cfg) (between :: others) [] s =
      if u.block.txWait = true
      then runHost (waitIdle s.cfg) others [u.block.status] { u with readData := u.block.status }
      else .next ([u.block.status], { u with readData := u.block.status })) ∧
  (∀ (s t : State) (others : List (List Move)) (seen : List Word),
    runHost (waitIdle s.cfg) others [] s = .next (seen, t) → waitIdle s.cfg seen = none →
    t.block.txWait = false ∧ t.readData = t.block.status ∧ seen.getLast? = some t.block.status ∧
      ∀ v ∈ seen.dropLast, v.getLsbD 0 = true) ∧
  (∀ (s u : State) (others : List (List Move)), s.Inv → s.block.txWait = false →
    others.length = (s.block.frameLen + 3) / 4 + 2 →
    (∀ m ∈ others.flatten, ∃ n, m = .clock n) → performAll others.flatten s = .next u →
    ∃ (seen : List Word) (v : Word) (t : State),
      runHost (readFrame s.cfg) others [] s = .next (seen ++ [v], t) ∧
      readFrame s.cfg (seen ++ [v]) = none ∧
      seen = BitVec.ofNat 32 s.block.frameLen :: (List.range ((s.block.frameLen + 3) / 4)).map s.block.frameWord ∧
      (∀ j, j < s.block.frameLen →
        (seen.getD (1 + j / 4) 0#32).extractLsb' (8 * (j % 4)) 8 = s.block.fout.getD j 0#8) ∧
      t = { s with
        clock := u.clock
        readData := v
        block := { s.block with frameLen := 0, frameValid := false } })
end

