-- ==== Sys2Proof/Laws/State.lean ====
section
/-! SUPPORT. One lemma per field per update of the block and of the state: which field an update writes, and that it leaves every
other field alone. -/

namespace Sys2Proof.Machine

/-! ## Block.raise -/

@[simp] theorem Block.raise_crcAcc (f : Flag) (b : Block) : (b.raise f).crcAcc = b.crcAcc := rfl
@[simp] theorem Block.raise_lrcSum (f : Flag) (b : Block) : (b.raise f).lrcSum = b.lrcSum := rfl
@[simp] theorem Block.raise_pend (f : Flag) (b : Block) : (b.raise f).pend = b.pend := rfl
@[simp] theorem Block.raise_pendLen (f : Flag) (b : Block) : (b.raise f).pendLen = b.pendLen := rfl
@[simp] theorem Block.raise_pendOvf (f : Flag) (b : Block) : (b.raise f).pendOvf = b.pendOvf := rfl
@[simp] theorem Block.raise_fout (f : Flag) (b : Block) : (b.raise f).fout = b.fout := rfl
@[simp] theorem Block.raise_frameLen (f : Flag) (b : Block) : (b.raise f).frameLen = b.frameLen := rfl
@[simp] theorem Block.raise_frameValid (f : Flag) (b : Block) : (b.raise f).frameValid = b.frameValid := rfl
@[simp] theorem Block.raise_txb (f : Flag) (b : Block) : (b.raise f).txb = b.txb := rfl
@[simp] theorem Block.raise_txLen (f : Flag) (b : Block) : (b.raise f).txLen = b.txLen := rfl
@[simp] theorem Block.raise_bitrate (f : Flag) (b : Block) : (b.raise f).bitrate = b.bitrate := rfl
@[simp] theorem Block.raise_tLastRx (f : Flag) (b : Block) : (b.raise f).tLastRx = b.tLastRx := rfl
@[simp] theorem Block.raise_tLastAct (f : Flag) (b : Block) : (b.raise f).tLastAct = b.tLastAct := rfl
@[simp] theorem Block.raise_actValid (f : Flag) (b : Block) : (b.raise f).actValid = b.actValid := rfl
@[simp] theorem Block.raise_txWait (f : Flag) (b : Block) : (b.raise f).txWait = b.txWait := rfl
@[simp] theorem Block.raise_sticky (f : Flag) (b : Block) : (b.raise f).sticky = b.sticky ||| f.mask := rfl
@[simp] theorem Block.raise_rxResult (f : Flag) (b : Block) : (b.raise f).rxResult = b.rxResult := rfl

/-! ## Block.clearFlags -/

@[simp] theorem Block.clearFlags_crcAcc (v : Word) (b : Block) : (b.clearFlags v).crcAcc = b.crcAcc := rfl
@[simp] theorem Block.clearFlags_lrcSum (v : Word) (b : Block) : (b.clearFlags v).lrcSum = b.lrcSum := rfl
@[simp] theorem Block.clearFlags_pend (v : Word) (b : Block) : (b.clearFlags v).pend = b.pend := rfl
@[simp] theorem Block.clearFlags_pendLen (v : Word) (b : Block) : (b.clearFlags v).pendLen = b.pendLen := rfl
@[simp] theorem Block.clearFlags_pendOvf (v : Word) (b : Block) : (b.clearFlags v).pendOvf = b.pendOvf := rfl
@[simp] theorem Block.clearFlags_fout (v : Word) (b : Block) : (b.clearFlags v).fout = b.fout := rfl
@[simp] theorem Block.clearFlags_frameLen (v : Word) (b : Block) : (b.clearFlags v).frameLen = b.frameLen := rfl
@[simp] theorem Block.clearFlags_frameValid (v : Word) (b : Block) : (b.clearFlags v).frameValid = b.frameValid := rfl
@[simp] theorem Block.clearFlags_txb (v : Word) (b : Block) : (b.clearFlags v).txb = b.txb := rfl
@[simp] theorem Block.clearFlags_txLen (v : Word) (b : Block) : (b.clearFlags v).txLen = b.txLen := rfl
@[simp] theorem Block.clearFlags_bitrate (v : Word) (b : Block) : (b.clearFlags v).bitrate = b.bitrate := rfl
@[simp] theorem Block.clearFlags_tLastRx (v : Word) (b : Block) : (b.clearFlags v).tLastRx = b.tLastRx := rfl
@[simp] theorem Block.clearFlags_tLastAct (v : Word) (b : Block) : (b.clearFlags v).tLastAct = b.tLastAct := rfl
@[simp] theorem Block.clearFlags_actValid (v : Word) (b : Block) : (b.clearFlags v).actValid = b.actValid := rfl
@[simp] theorem Block.clearFlags_txWait (v : Word) (b : Block) : (b.clearFlags v).txWait = b.txWait := rfl
@[simp] theorem Block.clearFlags_sticky (v : Word) (b : Block) : (b.clearFlags v).sticky = b.sticky &&& ~~~(v.extractLsb' 8 8) := rfl
@[simp] theorem Block.clearFlags_rxResult (v : Word) (b : Block) : (b.clearFlags v).rxResult = b.rxResult := rfl

/-! ## Block.markReceived -/

@[simp] theorem Block.markReceived_crcAcc (now : Nat) (b : Block) : (b.markReceived now).crcAcc = b.crcAcc := rfl
@[simp] theorem Block.markReceived_lrcSum (now : Nat) (b : Block) : (b.markReceived now).lrcSum = b.lrcSum := rfl
@[simp] theorem Block.markReceived_pend (now : Nat) (b : Block) : (b.markReceived now).pend = b.pend := rfl
@[simp] theorem Block.markReceived_pendLen (now : Nat) (b : Block) : (b.markReceived now).pendLen = b.pendLen := rfl
@[simp] theorem Block.markReceived_pendOvf (now : Nat) (b : Block) : (b.markReceived now).pendOvf = b.pendOvf := rfl
@[simp] theorem Block.markReceived_fout (now : Nat) (b : Block) : (b.markReceived now).fout = b.fout := rfl
@[simp] theorem Block.markReceived_frameLen (now : Nat) (b : Block) : (b.markReceived now).frameLen = b.frameLen := rfl
@[simp] theorem Block.markReceived_frameValid (now : Nat) (b : Block) : (b.markReceived now).frameValid = b.frameValid := rfl
@[simp] theorem Block.markReceived_txb (now : Nat) (b : Block) : (b.markReceived now).txb = b.txb := rfl
@[simp] theorem Block.markReceived_txLen (now : Nat) (b : Block) : (b.markReceived now).txLen = b.txLen := rfl
@[simp] theorem Block.markReceived_bitrate (now : Nat) (b : Block) : (b.markReceived now).bitrate = b.bitrate := rfl
@[simp] theorem Block.markReceived_tLastRx (now : Nat) (b : Block) : (b.markReceived now).tLastRx = now := rfl
@[simp] theorem Block.markReceived_tLastAct (now : Nat) (b : Block) : (b.markReceived now).tLastAct = now := rfl
@[simp] theorem Block.markReceived_actValid (now : Nat) (b : Block) : (b.markReceived now).actValid = true := rfl
@[simp] theorem Block.markReceived_txWait (now : Nat) (b : Block) : (b.markReceived now).txWait = b.txWait := rfl
@[simp] theorem Block.markReceived_sticky (now : Nat) (b : Block) : (b.markReceived now).sticky = b.sticky := rfl
@[simp] theorem Block.markReceived_rxResult (now : Nat) (b : Block) : (b.markReceived now).rxResult = b.rxResult := rfl

/-! ## Block.markSent -/

@[simp] theorem Block.markSent_crcAcc (now : Nat) (b : Block) : (b.markSent now).crcAcc = b.crcAcc := rfl
@[simp] theorem Block.markSent_lrcSum (now : Nat) (b : Block) : (b.markSent now).lrcSum = b.lrcSum := rfl
@[simp] theorem Block.markSent_pend (now : Nat) (b : Block) : (b.markSent now).pend = b.pend := rfl
@[simp] theorem Block.markSent_pendLen (now : Nat) (b : Block) : (b.markSent now).pendLen = b.pendLen := rfl
@[simp] theorem Block.markSent_pendOvf (now : Nat) (b : Block) : (b.markSent now).pendOvf = b.pendOvf := rfl
@[simp] theorem Block.markSent_fout (now : Nat) (b : Block) : (b.markSent now).fout = b.fout := rfl
@[simp] theorem Block.markSent_frameLen (now : Nat) (b : Block) : (b.markSent now).frameLen = b.frameLen := rfl
@[simp] theorem Block.markSent_frameValid (now : Nat) (b : Block) : (b.markSent now).frameValid = b.frameValid := rfl
@[simp] theorem Block.markSent_txb (now : Nat) (b : Block) : (b.markSent now).txb = b.txb := rfl
@[simp] theorem Block.markSent_txLen (now : Nat) (b : Block) : (b.markSent now).txLen = b.txLen := rfl
@[simp] theorem Block.markSent_bitrate (now : Nat) (b : Block) : (b.markSent now).bitrate = b.bitrate := rfl
@[simp] theorem Block.markSent_tLastRx (now : Nat) (b : Block) : (b.markSent now).tLastRx = b.tLastRx := rfl
@[simp] theorem Block.markSent_tLastAct (now : Nat) (b : Block) : (b.markSent now).tLastAct = now := rfl
@[simp] theorem Block.markSent_actValid (now : Nat) (b : Block) : (b.markSent now).actValid = true := rfl
@[simp] theorem Block.markSent_txWait (now : Nat) (b : Block) : (b.markSent now).txWait = b.txWait := rfl
@[simp] theorem Block.markSent_sticky (now : Nat) (b : Block) : (b.markSent now).sticky = b.sticky := rfl
@[simp] theorem Block.markSent_rxResult (now : Nat) (b : Block) : (b.markSent now).rxResult = b.rxResult := rfl

/-! ## Block.emptyPend -/

@[simp] theorem Block.emptyPend_crcAcc (b : Block) : (b.emptyPend).crcAcc = b.crcAcc := rfl
@[simp] theorem Block.emptyPend_lrcSum (b : Block) : (b.emptyPend).lrcSum = b.lrcSum := rfl
@[simp] theorem Block.emptyPend_pend (b : Block) : (b.emptyPend).pend = b.pend := rfl
@[simp] theorem Block.emptyPend_pendLen (b : Block) : (b.emptyPend).pendLen = 0 := rfl
@[simp] theorem Block.emptyPend_pendOvf (b : Block) : (b.emptyPend).pendOvf = false := rfl
@[simp] theorem Block.emptyPend_fout (b : Block) : (b.emptyPend).fout = b.fout := rfl
@[simp] theorem Block.emptyPend_frameLen (b : Block) : (b.emptyPend).frameLen = b.frameLen := rfl
@[simp] theorem Block.emptyPend_frameValid (b : Block) : (b.emptyPend).frameValid = b.frameValid := rfl
@[simp] theorem Block.emptyPend_txb (b : Block) : (b.emptyPend).txb = b.txb := rfl
@[simp] theorem Block.emptyPend_txLen (b : Block) : (b.emptyPend).txLen = b.txLen := rfl
@[simp] theorem Block.emptyPend_bitrate (b : Block) : (b.emptyPend).bitrate = b.bitrate := rfl
@[simp] theorem Block.emptyPend_tLastRx (b : Block) : (b.emptyPend).tLastRx = b.tLastRx := rfl
@[simp] theorem Block.emptyPend_tLastAct (b : Block) : (b.emptyPend).tLastAct = b.tLastAct := rfl
@[simp] theorem Block.emptyPend_actValid (b : Block) : (b.emptyPend).actValid = b.actValid := rfl
@[simp] theorem Block.emptyPend_txWait (b : Block) : (b.emptyPend).txWait = b.txWait := rfl
@[simp] theorem Block.emptyPend_sticky (b : Block) : (b.emptyPend).sticky = b.sticky := rfl
@[simp] theorem Block.emptyPend_rxResult (b : Block) : (b.emptyPend).rxResult = b.rxResult := rfl

/-! ## Block.recordPoll -/

@[simp] theorem Block.recordPoll_crcAcc (n : Nat) (c : RxCode) (b : Block) : (b.recordPoll n c).crcAcc = b.crcAcc := rfl
@[simp] theorem Block.recordPoll_lrcSum (n : Nat) (c : RxCode) (b : Block) : (b.recordPoll n c).lrcSum = b.lrcSum := rfl
@[simp] theorem Block.recordPoll_pend (n : Nat) (c : RxCode) (b : Block) : (b.recordPoll n c).pend = b.pend := rfl
@[simp] theorem Block.recordPoll_pendLen (n : Nat) (c : RxCode) (b : Block) : (b.recordPoll n c).pendLen = b.pendLen := rfl
@[simp] theorem Block.recordPoll_pendOvf (n : Nat) (c : RxCode) (b : Block) : (b.recordPoll n c).pendOvf = b.pendOvf := rfl
@[simp] theorem Block.recordPoll_fout (n : Nat) (c : RxCode) (b : Block) : (b.recordPoll n c).fout = b.fout := rfl
@[simp] theorem Block.recordPoll_frameLen (n : Nat) (c : RxCode) (b : Block) : (b.recordPoll n c).frameLen = b.frameLen := rfl
@[simp] theorem Block.recordPoll_frameValid (n : Nat) (c : RxCode) (b : Block) : (b.recordPoll n c).frameValid = b.frameValid := rfl
@[simp] theorem Block.recordPoll_txb (n : Nat) (c : RxCode) (b : Block) : (b.recordPoll n c).txb = b.txb := rfl
@[simp] theorem Block.recordPoll_txLen (n : Nat) (c : RxCode) (b : Block) : (b.recordPoll n c).txLen = b.txLen := rfl
@[simp] theorem Block.recordPoll_bitrate (n : Nat) (c : RxCode) (b : Block) : (b.recordPoll n c).bitrate = b.bitrate := rfl
@[simp] theorem Block.recordPoll_tLastRx (n : Nat) (c : RxCode) (b : Block) : (b.recordPoll n c).tLastRx = b.tLastRx := rfl
@[simp] theorem Block.recordPoll_tLastAct (n : Nat) (c : RxCode) (b : Block) : (b.recordPoll n c).tLastAct = b.tLastAct := rfl
@[simp] theorem Block.recordPoll_actValid (n : Nat) (c : RxCode) (b : Block) : (b.recordPoll n c).actValid = b.actValid := rfl
@[simp] theorem Block.recordPoll_txWait (n : Nat) (c : RxCode) (b : Block) : (b.recordPoll n c).txWait = b.txWait := rfl
@[simp] theorem Block.recordPoll_sticky (n : Nat) (c : RxCode) (b : Block) : (b.recordPoll n c).sticky = b.sticky := rfl
@[simp] theorem Block.recordPoll_rxResult (n : Nat) (c : RxCode) (b : Block) : (b.recordPoll n c).rxResult = rxResultWord n c := rfl

/-! ## Block.latchFrame -/

@[simp] theorem Block.latchFrame_crcAcc (f : List Byte) (b : Block) : (b.latchFrame f).crcAcc = b.crcAcc := rfl
@[simp] theorem Block.latchFrame_lrcSum (f : List Byte) (b : Block) : (b.latchFrame f).lrcSum = b.lrcSum := rfl
@[simp] theorem Block.latchFrame_pend (f : List Byte) (b : Block) : (b.latchFrame f).pend = b.pend := rfl
@[simp] theorem Block.latchFrame_pendLen (f : List Byte) (b : Block) : (b.latchFrame f).pendLen = b.pendLen := rfl
@[simp] theorem Block.latchFrame_pendOvf (f : List Byte) (b : Block) : (b.latchFrame f).pendOvf = b.pendOvf := rfl
@[simp] theorem Block.latchFrame_fout (f : List Byte) (b : Block) : (b.latchFrame f).fout = f ++ b.fout.drop f.length := rfl
@[simp] theorem Block.latchFrame_frameLen (f : List Byte) (b : Block) : (b.latchFrame f).frameLen = f.length := rfl
@[simp] theorem Block.latchFrame_frameValid (f : List Byte) (b : Block) : (b.latchFrame f).frameValid = true := rfl
@[simp] theorem Block.latchFrame_txb (f : List Byte) (b : Block) : (b.latchFrame f).txb = b.txb := rfl
@[simp] theorem Block.latchFrame_txLen (f : List Byte) (b : Block) : (b.latchFrame f).txLen = b.txLen := rfl
@[simp] theorem Block.latchFrame_bitrate (f : List Byte) (b : Block) : (b.latchFrame f).bitrate = b.bitrate := rfl
@[simp] theorem Block.latchFrame_tLastRx (f : List Byte) (b : Block) : (b.latchFrame f).tLastRx = b.tLastRx := rfl
@[simp] theorem Block.latchFrame_tLastAct (f : List Byte) (b : Block) : (b.latchFrame f).tLastAct = b.tLastAct := rfl
@[simp] theorem Block.latchFrame_actValid (f : List Byte) (b : Block) : (b.latchFrame f).actValid = b.actValid := rfl
@[simp] theorem Block.latchFrame_txWait (f : List Byte) (b : Block) : (b.latchFrame f).txWait = b.txWait := rfl
@[simp] theorem Block.latchFrame_sticky (f : List Byte) (b : Block) : (b.latchFrame f).sticky = b.sticky := rfl
@[simp] theorem Block.latchFrame_rxResult (f : List Byte) (b : Block) : (b.latchFrame f).rxResult = b.rxResult := rfl

/-! ## State.onBlock -/

@[simp] theorem State.onBlock_cfg (g : Block → Block) (s : State) : (s.onBlock g).cfg = s.cfg := rfl
@[simp] theorem State.onBlock_block (g : Block → Block) (s : State) : (s.onBlock g).block = g s.block := rfl
@[simp] theorem State.onBlock_clock (g : Block → Block) (s : State) : (s.onBlock g).clock = s.clock := rfl
@[simp] theorem State.onBlock_transport (g : Block → Block) (s : State) : (s.onBlock g).transport = s.transport := rfl
@[simp] theorem State.onBlock_line (g : Block → Block) (s : State) : (s.onBlock g).line = s.line := rfl
@[simp] theorem State.onBlock_readData (g : Block → Block) (s : State) : (s.onBlock g).readData = s.readData := rfl
@[simp] theorem State.onBlock_script (g : Block → Block) (s : State) : (s.onBlock g).script = s.script := rfl
@[simp] theorem State.onBlock_draws (g : Block → Block) (s : State) : (s.onBlock g).draws = s.draws := rfl

/-! ## State.reject -/

@[simp] theorem State.reject_cfg (s : State) : (s.reject).cfg = s.cfg := rfl
@[simp] theorem State.reject_block (s : State) : (s.reject).block = s.block.raise .cmdErr := rfl
@[simp] theorem State.reject_clock (s : State) : (s.reject).clock = s.clock := rfl
@[simp] theorem State.reject_transport (s : State) : (s.reject).transport = s.transport := rfl
@[simp] theorem State.reject_line (s : State) : (s.reject).line = s.line := rfl
@[simp] theorem State.reject_readData (s : State) : (s.reject).readData = s.readData := rfl
@[simp] theorem State.reject_script (s : State) : (s.reject).script = s.script := rfl
@[simp] theorem State.reject_draws (s : State) : (s.reject).draws = s.draws := rfl

/-! ## State.resetBlock -/

@[simp] theorem State.resetBlock_cfg (s : State) : (s.resetBlock).cfg = s.cfg := rfl
@[simp] theorem State.resetBlock_block (s : State) : (s.resetBlock).block = Block.afterReset s.cfg s.now := rfl
@[simp] theorem State.resetBlock_clock (s : State) : (s.resetBlock).clock = s.clock := rfl
@[simp] theorem State.resetBlock_transport (s : State) : (s.resetBlock).transport = s.transport := rfl
@[simp] theorem State.resetBlock_line (s : State) : (s.resetBlock).line = s.line := rfl
@[simp] theorem State.resetBlock_readData (s : State) : (s.resetBlock).readData = s.readData := rfl
@[simp] theorem State.resetBlock_script (s : State) : (s.resetBlock).script = s.script := rfl
@[simp] theorem State.resetBlock_draws (s : State) : (s.resetBlock).draws = s.draws := rfl

end Sys2Proof.Machine
end

