-- ==== Sys2Proof/Laws/Ops.lean ====
section
/-! SUPPORT. What each shared operation can do, said once: the transport's draws, acceptance and rejection of a command, one byte
pushed to a buffer, and that every buffer operation keeps the buffers' sizes and lengths in range. -/

namespace Sys2Proof.Machine

open Sys2Proof.Config

/-! ## The transport -/

/-- A read draws at most READ_MAX bytes and changes only the answers left and the free-value counter. -/
theorem State.transportRead_spec (s : State) :
    s.transportRead.1.length ≤ s.cfg.readMax ∧
      ∃ tr n, s.transportRead.2 = { s with transport := tr, draws := n } := by
  unfold State.transportRead
  split
  · exact ⟨List.length_take_le _ _, _, s.draws, rfl⟩
  · exact ⟨List.length_take_le _ _, s.transport, _, rfl⟩

/-- A write draws a count of at most the frame's length and changes only the answers left and the free-value counter. -/
theorem State.transportWrite_spec (len : Nat) (s : State) :
    (s.transportWrite len).1 ≤ len ∧ ∃ tr n, (s.transportWrite len).2 = { s with transport := tr, draws := n } := by
  unfold State.transportWrite
  split
  · exact ⟨Nat.min_le_right _ _, _, s.draws, rfl⟩
  · exact ⟨Nat.min_le_right _ _, s.transport, _, rfl⟩

/-- A scheduled answer within READ_MAX is what a read returns. -/
theorem State.transportRead_scheduled (s : State) (a : List Byte) (rest : List (List Byte))
    (h : s.transport.reads = a :: rest) (ha : a.length ≤ s.cfg.readMax) :
    s.transportRead = (a, { s with transport := { s.transport with reads := rest } }) := by
  simp [State.transportRead, h, List.take_of_length_le ha]

/-! ## Command issue -/

/-- The effect of each command once it is accepted. -/
def effectOf : Instr → State → State
  | .nop, s       => s
  | .crcInit, s   => s.onBlock fun b => { b with crcAcc := 0xFFFF#16 }
  | .crcByte x, s => s.onBlock fun b => { b with crcAcc := crcStep b.crcAcc x }
  | .lrcInit, s   => s.onBlock fun b => { b with lrcSum := 0#8 }
  | .lrcByte x, s => s.onBlock fun b => { b with lrcSum := b.lrcSum + x }
  | .rxPoll, s    => s.poll
  | .frameAck, s  => s.onBlock fun b => { b with frameValid := false, frameLen := 0 }
  | .txClear, s   => s.onBlock fun b => { b with txLen := 0 }
  | .txPush x, s  => s.onBlock (·.pushTx s.cfg.txCap x)
  | .txSend, s    => s.onBlock fun b => { b with txWait := true }

/-- A command needs an idle block, and a bitrate where it uses the spacing: one case split for every command. -/
theorem exec_cases (i : Instr) (s : State) :
    (((s.block.txWait = true ∧ i ≠ .nop) ∨ ((i = .rxPoll ∨ i = .txSend) ∧ s.block.bitrate = 0#32)) ∧
        exec i s = .next s.reject) ∨
      (¬((s.block.txWait = true ∧ i ≠ .nop) ∨ ((i = .rxPoll ∨ i = .txSend) ∧ s.block.bitrate = 0#32)) ∧
        exec i s = .next (effectOf i s)) := by
  cases hw : s.block.txWait <;> by_cases hb : s.block.bitrate = 0#32 <;> cases i <;>
    simp [exec, execNop, execCrcInit, execCrcByte, execLrcInit, execLrcByte, execRxPoll, execFrameAck, execTxClear,
      execTxPush, execTxSend, unlessBusyOrUnset, unlessBusy, effectOf, hw, hb]

/-! ## The buffers keep their form -/

/-- PEND, FOUT and TXB have the sizes of the parameters and their lengths are in range (R27, R29, R31). -/
abbrev Block.buffersWf (p : Params) (b : Block) : Prop :=
  b.pend.length = p.pendingCap ∧ b.pendLen ≤ p.pendingCap ∧ b.fout.length = p.foutCap ∧ b.frameLen ≤ p.foutCap ∧
    b.txb.length = p.txCap ∧ b.txLen ≤ p.txCap

theorem Block.afterReset_buffersWf (p : Params) (now : Nat) : (Block.afterReset p now).buffersWf p := by
  simp [Block.buffersWf, Block.afterReset]

theorem Block.pushPend_buffersWf (p : Params) (b : Block) (x : Byte) (h : b.buffersWf p) :
    (b.pushPend p.pendingCap x).buffersWf p := by
  unfold Block.pushPend
  split
  · simp [Block.buffersWf] at h ⊢; omega
  · exact h

theorem Block.pushTx_buffersWf (p : Params) (b : Block) (x : Byte) (h : b.buffersWf p) :
    (b.pushTx p.txCap x).buffersWf p := by
  unfold Block.pushTx
  split
  · simp [Block.buffersWf] at h ⊢; omega
  · exact h

theorem Block.latchFrame_buffersWf (p : Params) (b : Block) (f : List Byte) (h : b.buffersWf p)
    (hf : f.length ≤ p.foutCap) : (b.latchFrame f).buffersWf p := by
  simp [Block.buffersWf] at h ⊢; omega

/-- The pending list of a well-formed block has `st.pend_len` bytes. -/
theorem Block.pending_length (p : Params) (b : Block) (h : b.buffersWf p) : b.pending.length = b.pendLen := by
  simp [Block.pending, h.1, h.2.1]

/-- The payload of a well-formed block has `st.tx_len` bytes. -/
theorem Block.payload_length (p : Params) (b : Block) (h : b.buffersWf p) : b.payload.length = b.txLen := by
  simp [Block.payload, h.2.2.2.2.1, h.2.2.2.2.2]

/-- A byte pushed to a PEND that has room joins the pending list at its end. -/
theorem Block.pushPend_pending (cap : Nat) (b : Block) (x : Byte) (h : b.pendLen < cap) (hs : b.pend.length = cap) :
    (b.pushPend cap x).pending = b.pending ++ [x] := by
  have hl : b.pendLen < b.pend.length := by omega
  simp [Block.pushPend, h, Block.pending, List.take_add_one, List.getElem?_set_self hl,
    List.take_set_of_le (Nat.le_refl b.pendLen)]

/-- A byte pushed to a TXB that has room joins the payload at its end. -/
theorem Block.pushTx_payload (cap : Nat) (b : Block) (x : Byte) (h : b.txLen < cap) (hs : b.txb.length = cap) :
    (b.pushTx cap x).payload = b.payload ++ [x] := by
  have hl : b.txLen < b.txb.length := by omega
  simp [Block.pushTx, h, Block.payload, List.take_add_one, List.getElem?_set_self hl,
    List.take_set_of_le (Nat.le_refl b.txLen)]

end Sys2Proof.Machine
end

