-- ==== Sys2Proof/Laws/Framing.lean ====
section
/-! SUPPORT. What a poll and a TX_FIRE do to the state, said once: the bytes a poll appends, the outcomes of a judged candidate, what a
poll without bytes can do, and what TX_FIRE does. -/

namespace Sys2Proof.Machine

open Sys2Proof.Config

/-- Bytes pushed to PEND in order: the pending list grows up to the capacity, and what does not fit is dropped and flagged. -/
theorem Block.foldl_pushPend (cap : Nat) (new : List Byte) (b : Block) (hs : b.pend.length = cap)
    (hl : b.pendLen ≤ cap) :
    ∃ pend, pend.length = cap ∧ pend.take (min (b.pendLen + new.length) cap) = (b.pending ++ new).take cap ∧
      new.foldl (Block.pushPend cap) b = { b with
        pend := pend
        pendLen := min (b.pendLen + new.length) cap
        pendOvf := b.pendOvf || decide (cap < b.pendLen + new.length)
        sticky := if cap < b.pendLen + new.length then b.sticky ||| Flag.rxOvf.mask else b.sticky } := by
  induction new generalizing b with
  | nil =>
    refine ⟨b.pend, hs, ?_, ?_⟩
    · have : b.pend.take b.pendLen = (b.pend.take b.pendLen).take cap := by rw [List.take_take, Nat.min_eq_right hl]
      simpa [Block.pending, Nat.min_eq_left hl] using this
    · simp [Nat.min_eq_left hl, Nat.not_lt.mpr hl]
  | cons x xs ih =>
    rw [List.foldl_cons]
    by_cases h : b.pendLen < cap
    · have hp : (b.pushPend cap x).pending = b.pending ++ [x] := Block.pushPend_pending cap b x h hs
      have he : b.pushPend cap x = { b with pend := b.pend.set b.pendLen x, pendLen := b.pendLen + 1 } := by
        simp [Block.pushPend, h]
      obtain ⟨pend, h1, h2, h3⟩ := ih (b.pushPend cap x) (by simp [he, hs]) (by simp [he]; omega)
      refine ⟨pend, h1, ?_, ?_⟩
      · rw [hp] at h2
        rw [show min (b.pendLen + (x :: xs).length) cap = min ((b.pushPend cap x).pendLen + xs.length) cap by
          simp [he]; omega, h2]
        simp
      · rw [h3, he]
        simp only [List.length_cons, Block.mk.injEq, true_and, and_true]
        refine ⟨by omega, ?_, ?_⟩
        · congr 2; simp; omega
        · congr 1; simp; omega
    · have he : b.pushPend cap x = { b with pendOvf := true, sticky := b.sticky ||| Flag.rxOvf.mask } := by
        simp [Block.pushPend, h, Block.raise]
      have hc : b.pendLen = cap := by omega
      obtain ⟨pend, h1, h2, h3⟩ := ih (b.pushPend cap x) (by simp [he, hs]) (by simp [he, hl])
      have hlen : b.pending.length = cap := by simp [Block.pending, hs, hc]
      refine ⟨pend, h1, ?_, ?_⟩
      · simp only [he] at h2
        rw [show min (b.pendLen + (x :: xs).length) cap = min (b.pendLen + xs.length) cap by
          simp only [List.length_cons]; omega, h2]
        have : ({ b with pendOvf := true, sticky := b.sticky ||| Flag.rxOvf.mask } : Block).pending = b.pending := rfl
        rw [this, List.take_append_of_le_length (by omega), List.take_append_of_le_length (by omega)]
      · rw [h3, he]
        have hd : cap < b.pendLen + (xs.length + 1) := by omega
        simp only [List.length_cons, Block.mk.injEq, true_and, and_true, hd, decide_true, Bool.or_true, if_true,
          Bool.true_or]
        refine ⟨by omega, ?_⟩
        split
        · simp [BitVec.or_assoc]
        · rfl

/-- The outcomes of a judged candidate (R116, R117, R118). -/
theorem Block.judge_cases (c : List Byte) (lost : Bool) (b : Block) :
    (lost = true ∧ b.judge c lost = b.recordPoll 0 .discardOvf) ∨
    (lost = false ∧ c.length ≤ 3 ∧ b.judge c lost = (b.raise .rxShort).recordPoll 0 .discardShort) ∨
    (lost = false ∧ 4 ≤ c.length ∧
      crc16 (c.take (c.length - 2)) = crcOfBytes (c.getD (c.length - 2) 0#8) (c.getD (c.length - 1) 0#8) ∧
      b.judge c lost =
        ((b.raiseIf b.frameValid .frameOvr).latchFrame (c.take (c.length - 2))).recordPoll 0 .frame) ∨
    (lost = false ∧ 4 ≤ c.length ∧
      crc16 (c.take (c.length - 2)) ≠ crcOfBytes (c.getD (c.length - 2) 0#8) (c.getD (c.length - 1) 0#8) ∧
      b.judge c lost = (b.raise .rxCrc).recordPoll 0 .discardCrc) := by
  unfold Block.judge
  cases lost
  · by_cases h3 : c.length ≤ 3
    · exact .inr (.inl ⟨rfl, h3, by simp [h3]⟩)
    · by_cases hc : crc16 (c.take (c.length - 2)) = crcOfBytes (c.getD (c.length - 2) 0#8) (c.getD (c.length - 1) 0#8)
      · refine .inr (.inr (.inl ⟨rfl, by omega, hc, ?_⟩))
        simp only [Bool.false_eq_true, if_false, h3, hc, if_true]
      · refine .inr (.inr (.inr ⟨rfl, by omega, hc, ?_⟩))
        simp only [Bool.false_eq_true, if_false, h3, hc]
  · exact .inl ⟨rfl, rfl⟩

/-- What a poll does: bytes accumulated, or one of the outcomes of silence. -/
theorem State.poll_cases (s : State) :
    (s.transportRead.1 ≠ [] ∧ s.poll =
      s.transportRead.2.onBlock (·.accumulate s.cfg.pendingCap s.now s.transportRead.1)) ∨
    (s.transportRead.1 = [] ∧ s.block.pendLen = 0 ∧ s.poll = s.transportRead.2.onBlock (·.recordPoll 0 .idle)) ∨
    (s.transportRead.1 = [] ∧ s.block.pendLen ≠ 0 ∧ s.elapsed s.block.tLastRx < s.pspace ∧
      s.poll = s.transportRead.2.onBlock (·.recordPoll 0 .waiting)) ∨
    (s.transportRead.1 = [] ∧ s.block.pendLen ≠ 0 ∧ s.pspace ≤ s.elapsed s.block.tLastRx ∧
      s.poll = s.transportRead.2.onBlock fun b => b.emptyPend.judge b.pending b.pendOvf) := by
  obtain ⟨_, tr, n, h2⟩ := s.transportRead_spec
  have hp : s.poll = match s.transportRead with
    | ([], s')  => s'.pollSilence
    | (new, s') => s'.onBlock (·.accumulate s'.cfg.pendingCap s'.now new) := rfl
  generalize hr : s.transportRead = r at h2 hp ⊢
  obtain ⟨new, s'⟩ := r
  simp only at h2 hp ⊢
  subst h2
  cases new with
  | cons x xs => exact .inl ⟨by simp, hp⟩
  | nil =>
    simp only [State.pollSilence] at hp
    by_cases h0 : s.block.pendLen = 0
    · rw [if_pos h0] at hp
      exact .inr (.inl ⟨rfl, h0, hp⟩)
    · rw [if_neg h0] at hp
      by_cases hs : s.pspace ≤ s.elapsed s.block.tLastRx
      · have hq : ({ s with transport := tr, draws := n } : State).rxSilent = true := decide_eq_true hs
        rw [if_pos hq] at hp
        exact .inr (.inr (.inr ⟨rfl, h0, hs, hp⟩))
      · have hq : ¬({ s with transport := tr, draws := n } : State).rxSilent = true := fun h => hs (of_decide_eq_true h)
        rw [if_neg hq] at hp
        exact .inr (.inr (.inl ⟨rfl, h0, by omega, hp⟩))

/-- What TX_FIRE does for a write that took `k` bytes (R147, R148). -/
theorem State.txFire_eq (s : State) :
    ∃ k tr n, k ≤ (wireFrame s.block.payload).length ∧
      s.transportWrite (wireFrame s.block.payload).length = (k, { s with transport := tr, draws := n }) ∧
      s.txFire = (({ s with transport := tr, draws := n } : State).putOnLine k (wireFrame s.block.payload)).onBlock
        (·.sendDone k (wireFrame s.block.payload).length s.now) := by
  obtain ⟨h1, tr, n, h2⟩ := s.transportWrite_spec (wireFrame s.block.payload).length
  refine ⟨_, tr, n, h1, Prod.ext rfl h2, ?_⟩
  have hf : s.txFire = ((s.transportWrite (wireFrame s.block.payload).length).2.putOnLine
      (s.transportWrite (wireFrame s.block.payload).length).1 (wireFrame s.block.payload)).onBlock
      (·.sendDone (s.transportWrite (wireFrame s.block.payload).length).1 (wireFrame s.block.payload).length
        (s.transportWrite (wireFrame s.block.payload).length).2.now) := rfl
  rw [hf, h2]
  rfl

end Sys2Proof.Machine
end

