-- ==== Sys2Proof/Laws/PerInstr.lean ====
section
/-! SUPPORT. Per-instruction family Encodes: each command's fields are those of a legal command word (30_encoding.md R74), and its
encoding carries exactly these fields (R70, R71). -/

namespace Sys2Proof.Laws

/-- The fields of a word built from fields. -/
theorem fieldsOf_wordOf (f : CmdFields) : fieldsOf (wordOf f) = f := by
  obtain ⟨r, i, o⟩ := f
  simp only [fieldsOf, wordOf, CmdFields.mk.injEq]
  refine ⟨?_, ?_, ?_⟩ <;> · ext k hk; simp [BitVec.getElem_extractLsb']; grind

end Sys2Proof.Laws

namespace Sys2Proof.Laws.Encodes

/-- The command is well-formed and its word's fields are its own. -/
def Statement (i : Instr) : Prop := i.WellFormed ∧ fieldsOf (encode i) = i.fields

theorem nop : Statement .nop := ⟨by decide, fieldsOf_wordOf _⟩
theorem crcInit : Statement .crcInit := ⟨by decide, fieldsOf_wordOf _⟩
theorem crcByte (b : Byte) : Statement (.crcByte b) := ⟨rfl, fieldsOf_wordOf _⟩
theorem lrcInit : Statement .lrcInit := ⟨by decide, fieldsOf_wordOf _⟩
theorem lrcByte (b : Byte) : Statement (.lrcByte b) := ⟨rfl, fieldsOf_wordOf _⟩
theorem rxPoll : Statement .rxPoll := ⟨by decide, fieldsOf_wordOf _⟩
theorem frameAck : Statement .frameAck := ⟨by decide, fieldsOf_wordOf _⟩
theorem txClear : Statement .txClear := ⟨by decide, fieldsOf_wordOf _⟩
theorem txPush (b : Byte) : Statement (.txPush b) := ⟨rfl, fieldsOf_wordOf _⟩
theorem txSend : Statement .txSend := ⟨by decide, fieldsOf_wordOf _⟩

end Sys2Proof.Laws.Encodes
end

