-- ==== Sys2Proof/Laws/Step.lean ====
section
/-! SUPPORT. What a step can do, said once: a step is the next move performed, and a move that answers a next state does one of the
things `Performed` lists; how lists of moves and host programs run. -/

namespace Sys2Proof.Machine

theorem step_eq (s : State) : step s = perform s.nextMove s.taken := rfl

/-- Taking the next move leaves the block, the Clock and the line alone. -/
theorem State.taken_spec (s : State) : ∃ sc n, s.taken = { s with script := sc, draws := n } := by
  unfold State.taken
  split
  · exact ⟨_, s.draws, rfl⟩
  · exact ⟨s.script, _, rfl⟩

/-- A 32-bit read at an aligned offset of the window reads the register there. -/
theorem perform_rdMove (s : State) {off : Nat} (hl : off < 4096) (ha : off % 4 = 0) :
    perform (rdMove s.cfg off) s = readReg (regAt s.cfg off) s := by
  simp only [perform, rdMove, hostAccess, accessAddr, accessWidth, accessReg, Nat.add_sub_cancel_left]
  rw [if_neg (by omega), if_neg (by omega)]

/-- A 32-bit write at an aligned offset of the window writes the register there. -/
theorem perform_wrMove (s : State) {off : Nat} (v : Word) (hl : off < 4096) (ha : off % 4 = 0) :
    perform (wrMove s.cfg off v) s = writeReg (regAt s.cfg off) v s := by
  simp only [perform, wrMove, hostAccess, accessAddr, accessWidth, accessReg, Nat.add_sub_cancel_left]
  rw [if_neg (by omega), if_neg (by omega)]

/-- A write to CMD issues the word. -/
theorem perform_cmdWrite (s : State) (v : Word) : perform (cmdWrite s.cfg v) s = issue v s := by
  have h := perform_wrMove s (off := 0) v (by omega) rfl
  simpa [wrMove, cmdWrite, regAt, writeReg] using h

/-- The register at offset 0 alone is CMD. -/
theorem regAt_eq_cmd {p : Config.Params} {off : Nat} (h : regAt p off = .cmd) : off = 0 := by
  by_contra h0
  rw [regAt, if_neg h0] at h
  repeat' first | (split at h) | cases h

/-- The register at offset 4 alone is STATUS. -/
theorem regAt_eq_status {p : Config.Params} {off : Nat} (h : regAt p off = .status) : off = 0x004 := by
  by_contra h0
  by_cases h1 : off = 0
  · rw [regAt, if_pos h1] at h; cases h
  · rw [regAt, if_neg h1, if_neg h0] at h
    repeat' first | (split at h) | cases h

/-- The register at offset 16 alone is BITRATE. -/
theorem regAt_eq_bitrate {p : Config.Params} {off : Nat} (h : regAt p off = .bitrate) : off = 0x010 := by
  by_contra h0
  by_cases h1 : off = 0
  · rw [regAt, if_pos h1] at h; cases h
  · rw [regAt, if_neg h1] at h
    repeat' first | contradiction | (split at h)

/-- A move that writes no word to CMD issues no command. -/
theorem accepted_eq_none {m : Move} {s : State} (h : commandWord m s = none) : accepted m s = none := by
  simp [accepted, h]

/-- What performing a move can do, where it answers a next state. -/
inductive Performed (m : Move) (s : State) : State → Prop where
  /-- A command that decodes and that no check rejects. -/
  | command (i : Instr) (ha : accepted m s = some i) : Performed m s (effectOf i s)
  /-- A word written to CMD that is illegal or whose command is rejected. -/
  | rejected (v : Word) (hc : commandWord m s = some v) (ha : accepted m s = none) : Performed m s s.reject
  | read (a w : Nat) (v : Word) (hm : m = .host (.read a w)) : Performed m s { s with readData := v }
  | statusWrite (v : Word) (hm : m = wrMove s.cfg 0x004 v) (hc : commandWord m s = none) :
      Performed m s (s.onBlock (·.clearFlags v))
  | bitrateWrite (v : Word) (hm : m = wrMove s.cfg 0x010 v) (hc : commandWord m s = none) :
      Performed m s (writeBitrate v s)
  | ignored (a : Nat) (v : Word) (hm : m = .host (.write a 4 v)) (hc : commandWord m s = none) : Performed m s s
  | clock (n : Nat) (hm : m = .clock n) (hn : s.clock ≤ n) : Performed m s { s with clock := n }
  | fire (hm : m = .fire) : Performed m s s.sequencerTurn
  | reset (hm : m = .reset) : Performed m s s.resetBlock

/-- A word issued: its command accepted, or rejected. -/
theorem performed_issue {m : Move} {v : Word} {s t : State} (hc : commandWord m s = some v)
    (h : issue v s = .next t) : Performed m s t := by
  unfold issue at h
  cases hd : decode v with
  | error e =>
    rw [hd] at h; cases h
    exact .rejected v hc (by simp only [accepted, hc, hd])
  | ok i =>
    rw [hd] at h
    replace h : exec i s = .next t := h
    rcases exec_cases i s with ⟨hr, he⟩ | ⟨hr, he⟩ <;> rw [he] at h <;> cases h
    · exact .rejected v hc (by simp only [accepted, hc, hd]; exact if_pos hr)
    · exact .command i (by simp only [accepted, hc, hd]; exact if_neg hr)

/-- A write that is let through to a register. -/
theorem performed_write {a w : Nat} {v : Word} {s t : State} (hin : ¬(a < s.cfg.base)) (hw : w = 4)
    (h : writeReg (regAt s.cfg (a - s.cfg.base)) v s = .next t) : Performed (.host (.write a w v)) s t := by
  subst hw
  by_cases ha : a = s.cfg.base
  · subst ha
    rw [Nat.sub_self] at h
    exact performed_issue (by simp [commandWord]) h
  · have hc : commandWord (.host (.write a 4 v)) s = none := by simp [commandWord, ha]
    have hw : ∀ off, a - s.cfg.base = off → Move.host (.write a 4 v) = wrMove s.cfg off v := by
      intro off ho; simp only [wrMove]; congr 2; omega
    cases hr : regAt s.cfg (a - s.cfg.base) <;> simp only [hr, writeReg, Host.Outcome.next.injEq] at h
    case cmd => have := regAt_eq_cmd hr; omega
    case status => subst h; exact .statusWrite v (hw _ (regAt_eq_status hr)) hc
    case bitrate => subst h; exact .bitrateWrite v (hw _ (regAt_eq_bitrate hr)) hc
    all_goals subst h; exact .ignored a v rfl hc

/-- The inversion of `perform`. -/
theorem perform_cases {m : Move} {s t : State} (h : perform m s = .next t) : Performed m s t := by
  cases m with
  | secondHost a => cases h
  | clock n =>
    simp only [perform, clockStep] at h
    split at h
    · cases h
    · cases h; exact .clock n rfl (by omega)
  | fire => cases h; exact .fire rfl
  | reset => cases h; exact .reset rfl
  | host a =>
    simp only [perform, hostAccess] at h
    split at h
    · cases h
    split at h
    · cases h
    rename_i hin hal
    cases a with
    | read a w => cases h; exact .read a w _ rfl
    | write a w v =>
      simp only [accessAddr, accessWidth] at hin hal
      exact performed_write (by omega) (by omega) h

/-- With no frame latched, as after FRAME_ACK, a block that had cleared FOUT differs in bytes no rule reads (log 14). -/
theorem sameButUnread_clearedFout {s : State} (hn : s.block.frameLen = 0) :
    SameButUnread s (s.onBlock fun b => { b with fout := List.replicate b.fout.length 0#8 }) :=
  ⟨rfl, ⟨rfl, rfl, List.length_replicate⟩, by simp [hn], rfl, rfl⟩

/-- An accepted FRAME_ACK keeps FOUT (R121); the state in which it had cleared FOUT, as D16 words it, differs from the answer in
bytes no rule reads (log 14). -/
theorem frameAck_keepsUnreadFout {s : State} (h : s.block.txWait = false) :
    ∃ t, exec .frameAck s = .next t ∧ t.block.fout = s.block.fout ∧
      SameButUnread t (t.onBlock fun b => { b with fout := List.replicate b.fout.length 0#8 }) :=
  ⟨s.onBlock fun b => { b with frameValid := false, frameLen := 0 }, by simp [exec, execFrameAck, unlessBusy, h], rfl,
    sameButUnread_clearedFout rfl⟩

/-! ## Lists of moves and host programs -/

/-- Moves in order: the first list, then the second from where it ends. -/
theorem performAll_append (ms ns : List Move) (s : State) :
    performAll (ms ++ ns) s =
      match performAll ms s with
      | .next t    => performAll ns t
      | .fault r   => .fault r
      | .refused r => .refused r := by
  induction ms generalizing s with
  | nil => rfl
  | cons m ms ih =>
    simp only [List.cons_append, performAll]
    cases perform m s with
    | next t => exact ih t
    | fault r => rfl
    | refused r => rfl

/-- A host program that is done makes no access. -/
theorem runHost_done {prog : HostProgram} {seen : List Word} (h : prog seen = none) (others : List (List Move)) (s : State) :
    runHost prog others seen s = .next (seen, s) := by
  cases others <;> simp [runHost, h]

/-- One access of a host program after the other agents' moves. -/
theorem runHost_next {prog : HostProgram} {seen : List Word} {m : Move} {between : List Move} {s t : State}
    (h : prog seen = some m) (ht : performAll (between ++ [m]) s = .next t) (others : List (List Move)) :
    runHost prog (between :: others) seen s = runHost prog others (seen ++ [t.readData]) t := by
  simp [runHost, h, ht]

/-- A program that decides by nothing, run alone, is its accesses in order. -/
theorem runHost_straight (done ms : List Move) {seen : List Word} {s t : State} (hl : seen.length = done.length)
    (ht : performAll ms s = .next t) :
    ∃ seen', runHost (straight (done ++ ms)) (List.replicate ms.length []) seen s = .next (seen', t) := by
  induction ms generalizing done seen s with
  | nil => cases ht; exact ⟨seen, rfl⟩
  | cons m ms ih =>
    simp only [performAll] at ht
    cases hm : perform m s with
    | fault r => rw [hm] at ht; cases ht
    | refused r => rw [hm] at ht; cases ht
    | next u =>
      rw [hm] at ht
      have hs : straight (done ++ m :: ms) seen = some m := by simp [straight, hl]
      rw [List.length_cons, List.replicate_succ, runHost_next hs (t := u) (by simp [performAll, hm])]
      have := ih (done ++ [m]) (seen := seen ++ [u.readData]) (by simp [hl]) ht
      simpa using this

end Sys2Proof.Machine
end

