-- ==== Sys2Proof/Tests/Slice0.lean ====
section
/-! SUPPORT. Tests: expected results are the vectors of spec/95_test_vectors.md (named in the comments) or hand calculation from the
rules. Then the witnesses: for each statement with hypotheses, a concrete state and operands that meet them together. -/

namespace Sys2Proof.Tests

open Sys2Proof.Machine
open Sys2Proof.Config

/-! ## Small states -/

/-- Small parameters at a base that is not 0. -/
def small : Params := { defaults with base := 0x1000, pendingCap := 8, txCap := 4, readMax := 8 }

/-- An idle block with 9600 bit/s (spacing 4164, guard 8328), reset at 0. -/
def idle : State where
  cfg := small
  block := { Block.afterReset small 0 with bitrate := 9600#32 }
  clock := 0
  transport := { reads := [], writes := [] }
  line := []
  readData := 0#32
  script := []
  draws := 0

/-- A state with the clock at `t`. -/
def at_ (t : Nat) (s : State) : State := { s with clock := t }

/-- A state whose transport answers the next read with `l`. -/
def reading (l : List Byte) (s : State) : State := { s with transport := { s.transport with reads := [l] } }

/-- A state whose transport takes `k` bytes at the next write. -/
def taking (k : Nat) (s : State) : State := { s with transport := { s.transport with writes := [k] } }

/-- A state with `l` pending, received at 0. -/
def holding (l : List Byte) (s : State) : State :=
  s.onBlock fun b => { b with pend := l ++ List.replicate (8 - l.length) 0#8, pendLen := l.length, tLastRx := 0 }

/-- A state with payload `l`. -/
def loaded (l : List Byte) (s : State) : State :=
  s.onBlock fun b => { b with txb := l ++ List.replicate (4 - l.length) 0#8, txLen := l.length }

/-- A state with a frame latched and not acknowledged. -/
def latched (l : List Byte) (s : State) : State :=
  s.onBlock fun b => { b with fout := l ++ List.replicate (6 - l.length) 0#8, frameLen := l.length, frameValid := true }

/-- A state with a send pending. -/
def busy (s : State) : State := s.onBlock fun b => { b with txWait := true }

/-- What a test looks at in an answer. -/
def look {α : Type} (f : State → α) : Answer → Option α
  | .next s    => some (f s)
  | .fault _   => none
  | .refused _ => none

/-! ## Well-formedness: an ill-formed term for each check, which the check refuses -/

theorem test_rsvZero_refuses : (CmdFields.mk 1#16 0#8 0x02#8).wellFormed = false := by decide
theorem test_opAssigned_refuses : (CmdFields.mk 0#16 0#8 0x05#8).wellFormed = false := by decide
theorem test_operandAllowed_refuses : (CmdFields.mk 0#16 1#8 0x10#8).wellFormed = false := by decide
theorem test_base_refuses : ({ defaults with base := 0x800 } : Params).legal = false := by decide
theorem test_pendingCap_refuses_low : ({ defaults with pendingCap := 3 } : Params).legal = false := by decide
theorem test_pendingCap_refuses_high : ({ defaults with pendingCap := 3843 } : Params).legal = false := by decide
theorem test_txCap_refuses : ({ defaults with txCap := 65534 } : Params).legal = false := by decide
theorem test_readMax_refuses_low : ({ defaults with readMax := 0 } : Params).legal = false := by decide
theorem test_readMax_refuses_high : ({ defaults with readMax := 65536 } : Params).legal = false := by decide
theorem test_timeW_refuses_low : ({ defaults with timeW := 31 } : Params).legal = false := by decide
theorem test_timeW_refuses_high : ({ defaults with timeW := 65 } : Params).legal = false := by decide
theorem test_spacing_refuses_zero : ({ defaults with spacingMult := 0 } : Params).legal = false := by decide
theorem test_spacing_refuses_product : ({ defaults with guardMult := 108 } : Params).legal = false := by decide
theorem test_defaults_legal : defaults.legal = true := by decide
theorem test_small_legal : small.legal = true := by decide

/-! ## Decoding: words written out bit by bit from 30_encoding.md R71 and R73 (rsv, imm8, op), each constructor -/

theorem test_decode_nop : decode 0b0000000000000000_00000000_00000000#32 = .ok .nop := by decide
theorem test_decode_crcInit : decode 0b0000000000000000_00000000_00000001#32 = .ok .crcInit := by decide
theorem test_decode_crcByte : decode 0b0000000000000000_10110001_00000010#32 = .ok (.crcByte 0xB1#8) := by decide
theorem test_decode_lrcInit : decode 0b0000000000000000_00000000_00000011#32 = .ok .lrcInit := by decide
theorem test_decode_lrcByte : decode 0b0000000000000000_01001110_00000100#32 = .ok (.lrcByte 0x4E#8) := by decide
theorem test_decode_rxPoll : decode 0b0000000000000000_00000000_00010000#32 = .ok .rxPoll := by decide
theorem test_decode_frameAck : decode 0b0000000000000000_00000000_00010001#32 = .ok .frameAck := by decide
theorem test_decode_txClear : decode 0b0000000000000000_00000000_00100000#32 = .ok .txClear := by decide
theorem test_decode_txPush : decode 0b0000000000000000_11111111_00100001#32 = .ok (.txPush 0xFF#8) := by decide
theorem test_decode_txSend : decode 0b0000000000000000_00000000_00100010#32 = .ok .txSend := by decide
/-- V-ENC-4 to V-ENC-8. -/
theorem test_decode_illegal :
    decode 0x00000110#32 = .error .operandInFormatN ∧ decode 0x00010002#32 = .error .reservedBits ∧
    decode 0x00000005#32 = .error .reservedOp ∧ decode 0x000000FF#32 = .error .reservedOp ∧
    decode 0x80000022#32 = .error .reservedBits := by decide
theorem test_decodeTableWord : decodeTableWord 32 0x00006421 = some (.txPush 0x64#8) ∧ decodeTableWord 32 5 = none := by
  decide

/-! ## Checksums -/

/-- V-CRC-9, V-CRC-11, V-CRC-13. -/
theorem test_crc16 :
    crc16 [0x31#8, 0x32#8, 0x33#8, 0x34#8, 0x35#8, 0x36#8, 0x37#8, 0x38#8, 0x39#8] = 0x4B37#16 ∧
    crc16 [0x11#8, 0x06#8, 0x00#8, 0x02#8, 0x00#8, 0x64#8] = 0x712B#16 ∧ crc16 [0xFF#8, 0xFF#8] = 0x0000#16 := by
  decide +kernel
/-- V-CS-1, 2, 3, 4, 5, 6, 7. -/
theorem test_crcStep :
    crcStep 0xFFFF#16 0x00#8 = 0x40BF#16 ∧ crcStep 0xFFFF#16 0x01#8 = 0x807E#16 ∧ crcStep 0xFFFF#16 0xFF#8 = 0x00FF#16 ∧
    crcStep 0#16 0x00#8 = 0#16 ∧ crcStep 0#16 0x01#8 = 0xC0C1#16 ∧ crcStep 1#16 0x00#8 = 0xC0C1#16 ∧
    crcStep 0xFFFF#16 0x11#8 = 0x4C7F#16 := by decide
/-- V-LRC-1, 5, 8, 10. -/
theorem test_lrc :
    lrc [] = 0x00#8 ∧ lrc [0x80#8] = 0x80#8 ∧ lrc [0xFF#8, 0x01#8] = 0x00#8 ∧
    lrc [0x31#8, 0x32#8, 0x33#8, 0x34#8, 0x35#8, 0x36#8, 0x37#8, 0x38#8, 0x39#8] = 0x23#8 := by decide
/-- R92 example: CRC_BYTE 0x11 after reset. -/
theorem test_crcByte : look (fun t => t.regValue .crcValue) (exec (.crcByte 0x11#8) idle) = some 0x00004C7F#32 := by decide
/-- V-CC-3: rejected while busy. -/
theorem test_crcByte_busy :
    look (fun t => (t.block.crcAcc, t.block.sticky)) (exec (.crcByte 0x11#8) (busy idle)) = some (0xFFFF#16, 0x80#8) := by
  decide
/-- R91. -/
theorem test_crcInit :
    look (fun t => t.block.crcAcc) (exec .crcInit (idle.onBlock fun b => { b with crcAcc := 0x1234#16 })) =
      some 0xFFFF#16 := by decide
/-- R97: a sum that wraps, and LRC_VALUE of it. -/
theorem test_lrcByte_wraps :
    look (fun t => (t.block.lrcSum, t.regValue .lrcValue))
      (exec (.lrcByte 0x02#8) (idle.onBlock fun b => { b with lrcSum := 0xFF#8 })) =
      some (0x01#8, 0x000000FF#32) := by decide
/-- R96. -/
theorem test_lrcInit :
    look (fun t => t.regValue .lrcValue) (exec .lrcInit (idle.onBlock fun b => { b with lrcSum := 0x17#8 })) =
      some 0#32 := by decide

/-! ## Receive -/

/-- V-RX-2: three bytes appended. -/
theorem test_rxPoll_append :
    look (fun t => (t.block.rxResult, t.block.pending, t.block.tLastRx)) (exec .rxPoll (at_ 100 (reading [0x11#8, 0x06#8, 0x00#8] idle))) =
      some (0x00030001#32, [0x11#8, 0x06#8, 0x00#8], 100) := by decide
/-- V-RX-4 and V-RX-11 in small: equality counts as silent; the frame replaces an unacknowledged one. -/
theorem test_rxPoll_frame :
    look (fun t => (t.block.rxResult, t.block.frameLen, t.regValue (.frameData 0), t.block.sticky))
      (exec .rxPoll (at_ 4164 (reading [] (latched [1#8, 2#8, 3#8] (holding [0x11#8, 0x03#8, 0x4D#8, 0xE1#8] idle))))) =
      some (0x00000004#32, 2, 0x00000311#32, 0x20#8) := by decide +kernel
/-- V-RX-17, and the end state of P2: FOUT keeps the frame's bytes after FRAME_ACK, no longer visible. -/
theorem test_frameAck :
    look (fun t => (t.block.frameValid, t.regValue .frameLen, t.regValue (.frameData 0), t.block.fout.take 2))
      (exec .frameAck (latched [0x11#8, 0x03#8] idle)) = some (false, 0#32, 0#32, [0x11#8, 0x03#8]) := by decide

/-! ## Transmit -/

/-- V-TX-8 in small: a full TXB drops the byte. -/
theorem test_txPush_full :
    look (fun t => (t.block.txLen, t.block.status)) (exec (.txPush 9#8) (loaded [1#8, 2#8, 3#8, 4#8] idle)) =
      some (4, 0x00004000#32) := by decide
/-- R143 example. -/
theorem test_txPush : look (fun t => t.block.payload) (exec (.txPush 6#8) (loaded [0x11#8] idle)) = some [0x11#8, 6#8] := by
  decide
/-- R142 example. -/
theorem test_txClear : look (fun t => t.block.txLen) (exec .txClear (loaded [0x11#8] idle)) = some 0 := by decide
/-- P1: BUSY after TX_SEND. -/
theorem test_txSend : look (fun t => t.block.status) (exec .txSend idle) = some 0x00000001#32 := by decide
/-- V-TX-10. -/
theorem test_txSend_busy : look (fun t => t.block.sticky) (exec .txSend (busy idle)) = some 0x80#8 := by decide
/-- V-TX-3: the gate is closed at 8327. -/
theorem test_fire_holds : look (fun t => t.block.txWait) (perform .fire (at_ 8327 (busy (loaded [1#8] idle)))) = some true := by
  decide
/-- V-TX-4: a short write; the guard is over at 8328. -/
theorem test_fire_short :
    look (fun t => (t.line, t.block.status, t.block.tLastAct, t.block.txLen))
      (perform .fire (at_ 8328 (taking 3 (busy (loaded [0x11#8, 0x84#8, 0x02#8] idle))))) =
      some ([{ time := 8328, bytes := [0x11#8, 0x84#8, 0x02#8] }], 0x00000200#32, 8328, 0) := by decide

/-! ## Control, registers, agents -/

/-- V-ENC-11: NOP while busy. -/
theorem test_nop_busy : look (fun t => t.block.sticky) (exec .nop (busy idle)) = some 0x00#8 := by decide
/-- V-ST-1. -/
theorem test_status_clear :
    look (fun t => t.block.status) (perform (wrMove small 0x004 0x0000A5FF#32) (idle.onBlock fun b => { b with sticky := 0xFF#8 })) =
      some 0x00005A00#32 := by decide
/-- V-SP-3, and CAPS for these parameters. -/
theorem test_read_spacing_caps :
    look (fun t => t.readData) (perform (rdMove small 0x014) idle) = some 0x00001044#32 ∧
    look (fun t => t.readData) (perform (rdMove small 0x028) idle) = some 0x00040008#32 := by decide
/-- R110 table with the defaults. -/
theorem test_spacing_table :
    [1, 1200, 2400, 4800, 9600, 19200, 38400, 57600, 115200, 10000000, 10000001].map
        (fun n => packetSpacing defaults (BitVec.ofNat 32 n)) =
      [40000000, 33332, 16664, 8332, 4164, 2080, 1040, 692, 344, 4, 0] := by decide
/-- R190: STATUS, CRC_VALUE and CAPS at reset with the defaults. -/
theorem test_reset_registers :
    State.reset.regValue .status = 0x00000008#32 ∧ State.reset.regValue .crcValue = 0x0000FFFF#32 ∧
    State.reset.regValue .caps = 0x00FE0100#32 := by decide
/-- R52: half-word and misaligned accesses. -/
theorem test_bus_faults :
    (∃ o w, perform (.host (.read 0x1004 2)) idle = .fault (.busAccessFault o w) ∧ o = 4 ∧ w = 2) ∧
    (∃ o w, perform (.host (.write 0x1006 4 0#32)) idle = .fault (.busAccessFault o w) ∧ o = 6 ∧ w = 4) :=
  ⟨⟨_, _, rfl, rfl, rfl⟩, ⟨_, _, rfl, rfl, rfl⟩⟩
/-- A command placed by withFetchWord at reset is the next step. -/
theorem test_withFetchWord :
    look (fun t => (t.block.crcAcc, t.script)) (step (State.reset.withFetchWord 32 0x1102)) = some (0x4C7F#16, []) := by decide

/-! ## Witnesses -/

theorem reset_inv : State.reset.Inv := by
  constructor <;> first | exact List.length_replicate | decide

theorem idle_inv : idle.Inv := by
  constructor <;> decide

theorem witness_DecodeOfEncode : (Instr.txPush 0xFF#8).WellFormed ∧ Instr.nop.WellFormed := by decide
theorem witness_EncodeOfDecode : decode 0x0000FF02#32 = .ok (.crcByte 0xFF#8) := by decide
/-- The ends of each reserved range and each clause of R74. -/
theorem witness_IllegalWordsRejected :
    (∃ e, decode 0x00010000#32 = .error e) ∧ (∃ e, decode 0x0000000F#32 = .error e) ∧ (∃ e, decode 0x00000012#32 = .error e) ∧
    (∃ e, decode 0x0000001F#32 = .error e) ∧ (∃ e, decode 0x00000023#32 = .error e) ∧ (∃ e, decode 0x000000FF#32 = .error e) ∧
    ∃ e, decode 0x0000FF22#32 = .error e := by
  refine ⟨⟨_, rfl⟩, ⟨_, rfl⟩, ⟨_, rfl⟩, ⟨_, rfl⟩, ⟨_, rfl⟩, ⟨_, rfl⟩, ⟨_, rfl⟩⟩
theorem witness_StepRunsTheCommand :
    (∃ s : State, s.script = cmdWrite s.cfg 0x00000022#32 :: [.fire] ∧ decode 0x00000022#32 = .ok .txSend) ∧
    decodeTableWord 32 0x10 = some .rxPoll ∧ decodeTableWord 32 0xFF21 = some (.txPush 0xFF#8) :=
  ⟨⟨{ idle with script := cmdWrite small 0x00000022#32 :: [.fire] }, rfl, rfl⟩, rfl, rfl⟩
theorem witness_IllTimedCommandsRejected :
    (∃ e, decode 0x00000100#32 = .error e) ∧ (busy idle).block.txWait = true ∧ decode 0x00000001#32 ≠ .ok .nop := by
  refine ⟨⟨_, rfl⟩, rfl, by decide⟩
theorem witness_ZeroBitrateRejected :
    State.reset.block.bitrate = 0#32 ∧ Instr.txPush 1#8 ≠ .rxPoll ∧ Instr.txPush 1#8 ≠ .txSend := by decide
theorem witness_BlockNeverStops : 0xFFC < 4096 ∧ 0xFFC % 4 = 0 ∧ idle.clock ≤ 0 := by decide
/-- For every statement whose cases are an idle block, a busy block, and a bitrate or none. -/
theorem witness_idle_and_busy :
    idle.block.txWait = false ∧ (busy idle).block.txWait = true ∧ idle.block.bitrate ≠ 0#32 ∧
    State.reset.block.bitrate = 0#32 := by decide
theorem witness_accumulators :
    idle.block.crcAcc = crc16 [] ∧ idle.block.lrcSum.toNat = (([] : List Byte).map BitVec.toNat).sum % 256 ∧
    (∃ t, perform (issueMove small (.crcByte 1#8)) idle = .next t) ∧ ∃ t, perform .reset idle = .next t :=
  ⟨rfl, rfl, ⟨_, rfl⟩, ⟨_, rfl⟩⟩
/-- The three kinds of move of FramingIgnoresAccumulator and SendIgnoresReceiver. -/
theorem witness_framing_moves :
    accepted (issueMove small .rxPoll) idle = some .rxPoll ∧ accepted (issueMove small .txSend) idle = some .txSend ∧
    (at_ 8328 (busy idle)).txFireEnabled = true := by decide
theorem witness_PacketSpacing :
    idle.block.bitrate ≠ 0#32 ∧ (9600#32 : Word) ≠ 0#32 ∧
    (idle.onBlock fun b => { b with bitrate := 10000001#32 }).cfg.spacingNum <
      (idle.onBlock fun b => { b with bitrate := 10000001#32 }).block.bitrate.toNat := by decide
theorem witness_SpacingNeverOverflows : idle.cfg.legal = true := by decide
theorem witness_ElapsedIsModular : 2 ^ 64 - 1 < 2 ^ idle.cfg.timeW := by decide
theorem witness_ClockIsMonotonic : (at_ 5 idle).clock ≤ 5 ∧ 4 < (at_ 5 idle).clock := by decide
theorem witness_OnlyTimeDifferencesMatter :
    idle.Inv ∧ ShiftedBy 7 idle (at_ 7 (idle.onBlock fun b => { b with tLastAct := 7, tLastRx := 99 })) :=
  ⟨idle_inv, rfl, by decide, by decide⟩
theorem witness_PollAppendsBytes :
    idle.Inv ∧ (reading [1#8] idle).block.txWait = false ∧ (reading [1#8] idle).block.bitrate ≠ 0#32 ∧
    (reading [1#8] idle).transportRead.1 = [1#8] ∧ [1#8] ≠ [] ∧ (reading [1#8] idle).Inv := by
  refine ⟨idle_inv, by decide, by decide, by decide, by decide, ?_⟩
  constructor <;> decide

/-- The candidates of the completion statements, at the moment of silence and just before it. -/
def silent (l : List Byte) : State := at_ 4164 (reading [] (holding l idle))

/-- An accepted poll that gets no bytes, in a state `s`. -/
abbrev emptyPoll (s : State) : Prop :=
  s.block.txWait = false ∧ s.block.bitrate ≠ 0#32 ∧ s.transportRead.1 = []

/-- PEND empty; inside the gap by one microsecond; at silence, where equality counts. -/
theorem witness_PollWithoutBytes :
    (emptyPoll (reading [] idle) ∧ (reading [] idle).block.pendLen = 0) ∧
    (emptyPoll (at_ 4163 (silent [1#8])) ∧ (at_ 4163 (silent [1#8])).block.pendLen ≠ 0 ∧
      (at_ 4163 (silent [1#8])).elapsed (at_ 4163 (silent [1#8])).block.tLastRx + 1 = (at_ 4163 (silent [1#8])).pspace) ∧
    (emptyPoll (silent [1#8]) ∧ (silent [1#8]).block.pendLen ≠ 0 ∧
      (silent [1#8]).pspace = (silent [1#8]).elapsed (silent [1#8]).block.tLastRx) := by
  decide

/-- A full PEND that has lost bytes, at silence. -/
def lost : State := (silent [1#8, 2#8, 3#8, 4#8, 5#8, 6#8, 7#8, 8#8]).onBlock fun b => { b with pendOvf := true }

theorem witness_PollDiscards_lost :
    lost.Inv ∧ emptyPoll lost ∧ lost.block.pendLen ≠ 0 ∧ lost.pspace ≤ lost.elapsed lost.block.tLastRx ∧
    lost.block.pendOvf = true := by
  refine ⟨?_, by decide⟩
  constructor <;> decide
/-- [11 7F 4C], whose last two bytes are the CRC of the first (V-RX-6): three bytes, the boundary. -/
def shortCandidate : State := silent [0x11#8, 0x7F#8, 0x4C#8]

theorem witness_PollDiscards_short :
    shortCandidate.Inv ∧ emptyPoll shortCandidate ∧ shortCandidate.block.pendLen ≠ 0 ∧
    shortCandidate.pspace ≤ shortCandidate.elapsed shortCandidate.block.tLastRx ∧ shortCandidate.block.pendOvf = false ∧
    shortCandidate.block.pendLen = 3 := by
  refine ⟨?_, by decide⟩
  constructor <;> decide

/-- A candidate at silence that lost nothing and has `m` bytes. -/
abbrev judged (s : State) (m : Nat) : Prop :=
  emptyPoll s ∧ s.pspace ≤ s.elapsed s.block.tLastRx ∧ s.block.pendOvf = false ∧ s.block.pendLen = m ∧ 4 ≤ m

/-- The candidate ends in the CRC of the rest. -/
abbrev crcMatches (s : State) (m : Nat) : Prop :=
  crc16 (s.block.pend.take (m - 2)) =
    (s.block.pend.getD (m - 2) 0#8).setWidth 16 ||| ((s.block.pend.getD (m - 1) 0#8).setWidth 16 <<< 8)

/-- [11 03 4D E1] (V-RX-7): four bytes, the boundary, and the CRC matches. -/
theorem witness_PollJudgesCrc_match :
    (silent [0x11#8, 0x03#8, 0x4D#8, 0xE1#8]).Inv ∧ judged (silent [0x11#8, 0x03#8, 0x4D#8, 0xE1#8]) 4 ∧
    crcMatches (silent [0x11#8, 0x03#8, 0x4D#8, 0xE1#8]) 4 := by
  refine ⟨?_, by decide, by decide +kernel⟩
  constructor <;> decide
/-- [11 03 4D E0]: the CRC does not match. -/
theorem witness_PollJudgesCrc_mismatch :
    (silent [0x11#8, 0x03#8, 0x4D#8, 0xE0#8]).Inv ∧ judged (silent [0x11#8, 0x03#8, 0x4D#8, 0xE0#8]) 4 ∧
    ¬crcMatches (silent [0x11#8, 0x03#8, 0x4D#8, 0xE0#8]) 4 := by
  refine ⟨?_, by decide, by decide +kernel⟩
  constructor <;> decide

/-- A receiver whose transport returns the pieces of `ds`, then nothing. -/
def receiver (ds : List (Nat × List Byte)) : State :=
  { idle with transport := { reads := ds.map Prod.snd ++ [[]], writes := [] } }

/-- The frame [11 03 4D E1] in two pieces at 10 and 4183, and polls without bytes: before the first, one microsecond before
silence, and before the final silence. -/
def pieces : List (Nat × List Byte) :=
  [(0, []), (10, [0x11#8, 0x03#8]), (4173, []), (4183, [0x4D#8, 0xE1#8]), (5000, [])]

/-- The frame [11 7F 4C] of the payload [11], too short to be accepted, in two pieces. -/
def shortPieces : List (Nat × List Byte) := [(10, [0x11#8]), (20, [0x7F#8, 0x4C#8])]

/-- What FramesAreExactlyTheValidCandidates and SendThenReceiveRoundTrip suppose of a receiver at 0 and of deliveries to it. -/
structure Delivers (ds : List (Nat × List Byte)) (last : Nat) : Prop where
  inv     : (receiver ds).Inv
  ready   : (receiver ds).block.txWait = false ∧ (receiver ds).block.bitrate ≠ 0#32 ∧ (receiver ds).block.pendLen = 0
  short   : ∀ d ∈ ds, d.2.length ≤ (receiver ds).cfg.readMax
  times   : timesFrom (receiver ds).clock ds last
  gaps    : NoSilenceWithin (receiver ds).cfg.timeW (receiver ds).pspace none ds
  answers : (receiver ds).transport.reads = ds.map Prod.snd ++ [] :: []
  silence : ∀ t, lastBytesAt none ds = some t → (receiver ds).pspace ≤ (last - t) % 2 ^ (receiver ds).cfg.timeW
  bytes   : ds.flatMap Prod.snd ≠ []

theorem pieces_delivered : Delivers pieces 8347 where
  inv := by constructor <;> decide
  ready := by decide
  short := by decide
  times := by simp [timesFrom, receiver, idle, pieces]
  gaps := by
    have h : (receiver pieces).pspace = 4164 := by decide
    have w : (receiver pieces).cfg.timeW = 64 := rfl
    rw [h, w]
    simp [NoSilenceWithin, pieces]
  answers := rfl
  silence := by rintro t h; cases h; decide
  bytes := by decide

theorem shortPieces_delivered : Delivers shortPieces 4184 where
  inv := by constructor <;> decide
  ready := by decide
  short := by decide
  times := by simp [timesFrom, receiver, idle, shortPieces]
  gaps := by simp [NoSilenceWithin, shortPieces]
  answers := rfl
  silence := by rintro t h; cases h; decide
  bytes := by decide

/-- An accepted and a discarded candidate, each judged at the first microsecond of silence. -/
theorem witness_FramesAreExactlyTheValidCandidates : Delivers pieces 8347 ∧ Delivers shortPieces 4184 :=
  ⟨pieces_delivered, shortPieces_delivered⟩
theorem witness_FrameAckEffect :
    idle.Inv ∧ idle.block.txWait = false ∧ idle.block.frameValid = false ∧ idle.cfg.legal = true ∧ 1 < idle.cfg.foutWords :=
  ⟨idle_inv, by decide⟩
/-- Room for one more byte, and none. -/
theorem witness_TxPushEffect :
    (loaded [1#8, 2#8, 3#8] idle).block.txWait = false ∧ (loaded [1#8, 2#8, 3#8, 4#8] idle).block.txWait = false ∧
    (loaded [1#8, 2#8, 3#8] idle).block.txLen < (loaded [1#8, 2#8, 3#8] idle).cfg.txCap ∧
    (loaded [1#8, 2#8, 3#8, 4#8] idle).cfg.txCap ≤ (loaded [1#8, 2#8, 3#8, 4#8] idle).block.txLen := by decide
theorem witness_TxLoadBuildsPayload : idle.Inv ∧ idle.block.txWait = false := ⟨idle_inv, rfl⟩
theorem witness_GateAndHold :
    ¬((at_ 8327 (busy idle)).block.txWait = true ∧ (at_ 8327 (busy idle)).txGateOpen = true) := by decide

/-- A sender with payload [11 03] whose gate has just opened and whose transport takes `k` bytes. -/
def sender (k : Nat) : State := at_ 8328 (taking k (busy (loaded [0x11#8, 0x03#8] idle)))

/-- A whole write, a short one, and an empty one. -/
theorem witness_TxFireEffect :
    (sender 4).block.txWait = true ∧ (sender 4).txGateOpen = true ∧ ((sender 4).transportWrite 4).1 = 4 ∧
    ((sender 1).transportWrite 4).1 = 1 ∧ ((sender 0).transportWrite 4).1 = 0 ∧ (sender 4).block.bitrate ≠ 0#32 := by decide
theorem sender_inv : (sender 4).Inv := by
  constructor <;> decide
theorem witness_PendingSendFreezesBlock :
    (∃ t, perform (.clock 9000) (sender 4) = .next t) ∧ (∃ t, perform .fire (sender 4) = .next t) ∧
    (∃ t, perform .reset (sender 4) = .next t) ∧ (sender 4).block.txWait = true ∧ (sender 4).txFireEnabled = true ∧
    accepted (issueMove small .txSend) idle = some .txSend ∧ ∃ t, perform (issueMove small .txSend) idle = .next t :=
  ⟨⟨_, rfl⟩, ⟨_, rfl⟩, ⟨_, rfl⟩, rfl, rfl, rfl, ⟨_, rfl⟩⟩

/-- A sender whose transport takes 4 bytes and then none. -/
def sendsTwice : State := { sender 4 with transport := { reads := [[0x11#8]], writes := [4, 0] } }

theorem sendsTwice_inv : sendsTwice.Inv := by
  constructor <;> decide

/-- The second send of SpacingGuarantee, and its moves. -/
def nextSend : List Move := [issueMove small (.txPush 1#8), issueMove small .txSend, .clock 16656]

/-- After a TX_FIRE at 8328: the second TX_FIRE at 16656, one guard later, whose write takes no byte. -/
theorem witness_SpacingGuarantee_fire :
    sendsTwice.Inv ∧
    ∃ s1 s2, perform .fire sendsTwice = .next s1 ∧ s1.line ≠ sendsTwice.line ∧ Move.reset ∉ nextSend ∧
      performAll nextSend s1 = .next s2 ∧ s2.txFireEnabled = true ∧ s2.transport.writes = [0] := by
  refine ⟨sendsTwice_inv, _, _, rfl, by decide +kernel, by decide +kernel, rfl, by decide +kernel, by decide +kernel⟩

/-- An idle block at 8328 whose transport delivers a byte. -/
def pollsThenSends : State := { at_ 8328 idle with transport := { reads := [[0x11#8]], writes := [] } }

/-- After a poll that got a byte at 8328: TX_FIRE at 16656. -/
theorem witness_SpacingGuarantee_poll :
    pollsThenSends.Inv ∧ accepted (issueMove small .rxPoll) pollsThenSends = some .rxPoll ∧
    pollsThenSends.transportRead.1 ≠ [] ∧ Move.reset ∉ nextSend ∧
    ∃ s1 s2, perform (issueMove small .rxPoll) pollsThenSends = .next s1 ∧ performAll nextSend s1 = .next s2 ∧
      s2.txFireEnabled = true := by
  refine ⟨?_, by decide, by decide, by decide, _, _, rfl, rfl, by decide⟩
  constructor <;> decide

/-- A pending send on a clock of 32 bits that has wrapped once, 5 microseconds after the last activity. -/
def wrapped : State :=
  { at_ (2 ^ 32 + 5) (busy idle) with cfg := { small with timeW := 32 } }

theorem witness_BoundedWait :
    wrapped.Inv ∧ wrapped.block.txWait = true ∧ Move.fire ∉ [Move.clock (2 ^ 32 + 8333)] ∧
    Move.reset ∉ [Move.clock (2 ^ 32 + 8333)] ∧
    performAll [.clock (2 ^ 32 + 8333)] wrapped = .next (at_ (2 ^ 32 + 8333) wrapped) ∧
    wrapped.clock + wrapped.cfg.guardMult * wrapped.pspace = (at_ (2 ^ 32 + 8333) wrapped).clock ∧
    wrapped.elapsed wrapped.block.tLastAct + ((at_ (2 ^ 32 + 8333) wrapped).clock - wrapped.clock) < 2 ^ wrapped.cfg.timeW := by
  refine ⟨?_, by decide, by decide, by decide, rfl, by decide, by decide⟩
  constructor <;> decide

/-- A pending send with RESET_GATE = open and no activity, whose transport takes nothing. -/
def openSend : State :=
  { taking 0 (busy idle) with
    cfg := { small with resetGate := .opened }
    block := { (busy idle).block with actValid := false } }

/-- TX_FIRE, then the Clock one microsecond at a time. -/
def endlessMoves : Nat → Move
  | 0     => .fire
  | n + 1 => .clock (n + 1)

/-- The states of `endlessMoves`. -/
def endlessRun : Nat → State
  | 0     => openSend
  | n + 1 => at_ n openSend.sequencerTurn

theorem endlessRun_idle (n : Nat) : (endlessRun (n + 1)).block.txWait = false := rfl

theorem witness_PendingSendEndsByFireOrReset :
    AgentRun endlessMoves endlessRun ∧ ClockUnbounded endlessRun ∧ FireWeaklyFair endlessMoves endlessRun ∧
    (endlessRun 0).block.txWait = true ∧ ∀ m, (endlessRun m).txGateOpen = true := by
  refine ⟨?_, fun t => ⟨t + 2, Nat.lt_succ_self t⟩, ?_, rfl, ?_⟩
  · intro n
    cases n with
    | zero => rfl
    | succ n =>
      have h : ¬(n + 1 < n) := by omega
      simp [endlessMoves, endlessRun, perform, clockStep, at_, h]
  · intro n h
    have := h (n + 1) (by omega)
    rw [State.txFireEnabled, endlessRun_idle] at this
    cases this
  · rintro (_ | n) <;> rfl

/-- A frame sent whole and then delivered in `pieces`. -/
theorem witness_SendThenReceiveRoundTrip :
    (sender 4).txFireEnabled = true ∧ (sender 4).block.payload = [0x11#8, 0x03#8] ∧ ((sender 4).transportWrite 4).1 = 4 ∧
    (∃ a' e, perform .fire (sender 4) = .next a' ∧ a'.line = (sender 4).line ++ [e] ∧ pieces.flatMap Prod.snd = e.bytes) ∧
    [0x11#8, 0x03#8].length ≤ (receiver pieces).cfg.foutCap ∧ Delivers pieces 8347 := by
  refine ⟨by decide, by decide, by decide, ?_, by decide, pieces_delivered⟩
  exact ⟨_, { time := 8328, bytes := [0x11#8, 0x03#8, 0x4D#8, 0xE1#8] }, rfl, by decide +kernel, by decide⟩

/-- A sender of the one-byte payload [11], the boundary of a frame that is discarded as short. -/
def shortSender : State := at_ 8328 (taking 3 (busy (loaded [0x11#8] idle)))

theorem witness_SendThenReceiveRoundTrip_short :
    shortSender.txFireEnabled = true ∧ shortSender.block.payload = [0x11#8] ∧ (shortSender.transportWrite 3).1 = 3 ∧
    (∃ a' e, perform .fire shortSender = .next a' ∧ a'.line = shortSender.line ++ [e] ∧
      shortPieces.flatMap Prod.snd = e.bytes) ∧
    [0x11#8].length ≤ (receiver shortPieces).cfg.foutCap ∧ Delivers shortPieces 4184 := by
  refine ⟨by decide, by decide, by decide, ?_, by decide, shortPieces_delivered⟩
  exact ⟨_, { time := 8328, bytes := [0x11#8, 0x7F#8, 0x4C#8] }, rfl, by decide +kernel, by decide⟩

/-- The ends of each range of the register map, and of FRAME_DATA for these parameters (6 bytes, 2 words). -/
theorem witness_register_offsets :
    idle.cfg.legal = true ∧ idle.cfg.foutWords = 2 ∧
    ∀ off ∈ [0x000, 0x004, 0x028, 0x02C, 0x0FC, 0x100, 0x104, 0x108, 0xFFC], off < 4096 ∧ off % 4 = 0 := by decide
theorem witness_FrameDataWindow : small.legal = true ∧ 0 < small.foutWords ∧ 1 < small.foutWords ∧ 3 < 4 := by decide
theorem witness_StatusRegister : 0 < 32 ∧ 3 < 32 ∧ 4 < 32 ∧ 7 < 32 ∧ 8 < 32 ∧ 15 < 32 ∧ 16 < 32 ∧ 31 < 32 := by decide
/-- A move for each case of EventsOfOneMove, all of which answer. -/
theorem witness_EventsOfOneMove :
    ∀ p ∈ [(Move.reset, idle), (wrMove small 0x004 0#32, idle), (.clock 1, idle), (cmdWrite small 5#32, idle),
        (wrMove small 0x010 1#32, busy idle), (issueMove small .rxPoll, shortCandidate),
        (issueMove small (.txPush 9#8), loaded [1#8, 2#8, 3#8, 4#8] idle), (.fire, sender 1)],
      look (fun _ => true) (perform p.1 p.2) = some true := by decide
theorem witness_NarrowOrMisalignedFaults : 0xFFF < 4096 ∧ (1 ≠ 4 ∨ 0xFFF % 4 ≠ 0) ∧ (4 ≠ 4 ∨ 2 % 4 ≠ 0) := by decide
theorem witness_OutsideWindowFaults : 0xFFF < idle.cfg.base ∧ idle.cfg.base + 4096 ≤ 0x2000 := by decide
/-- A flag that a STATUS write clears, and a result that a poll changes. -/
theorem witness_FlagsFallOnlyByHostOrReset :
    (∃ t, perform (wrMove small 0x004 0x00008000#32) (idle.onBlock (·.raise .cmdErr)) = .next t ∧
      (idle.onBlock (·.raise .cmdErr)).block.sticky.getLsbD 7 = true ∧ t.block.sticky.getLsbD 7 = false) ∧
    ∃ t, perform (issueMove small .rxPoll) (reading [] idle) = .next t ∧ t.block.rxResult ≠ (reading [] idle).block.rxResult :=
  ⟨⟨_, rfl, by decide, by decide⟩, ⟨_, rfl, by decide⟩⟩
theorem witness_StepKeepsInv : sendsTwice.Inv ∧ ∃ t, step { sendsTwice with script := [.fire] } = .next t :=
  ⟨sendsTwice_inv, ⟨_, rfl⟩⟩
theorem witness_UnreadBytesNeverObserved :
    idle.Inv ∧ SameButUnread idle (idle.onBlock fun b => { b with
      pend := List.replicate 8 0xEE#8, txb := List.replicate 4 0xEE#8, fout := List.replicate 6 0xEE#8 }) :=
  ⟨idle_inv, rfl, by decide, by decide, by decide, by decide⟩

/-- The send of an empty payload, whose gate has just opened. -/
theorem witness_GateAndHold_emptyPayload :
    (at_ 8328 (taking 2 (busy idle))).block.txLen = 0 ∧ (at_ 8328 (taking 2 (busy idle))).txFireEnabled = true ∧
    ((at_ 8328 (taking 2 (busy idle))).transportWrite 2).1 = 2 := by decide

/-- V-TX-4 and WAIT_IDLE: BUSY is read once, TX_FIRE comes between, and the second read ends the program. -/
theorem test_waitIdle :
    (∃ t, runHost (waitIdle small) [[], [.fire], []] [] (sender 4) = .next ([0x00000001#32, 0x00000100#32], t)) ∧
    waitIdle small [0x00000001#32] ≠ none ∧ waitIdle small [0x00000001#32, 0x00000100#32] = none :=
  ⟨⟨_, rfl⟩, by decide, by decide⟩

theorem witness_WaitIdleAndReadFrame_wait :
    (∃ u, performAll [.fire] (sender 4) = .next u ∧ u.block.txWait = false) ∧
    (∃ u, performAll [] (sender 4) = .next u ∧ u.block.txWait = true) ∧
    ∃ seen t, runHost (waitIdle (sender 4).cfg) [[], [.fire], []] [] (sender 4) = .next (seen, t) ∧
      waitIdle (sender 4).cfg seen = none :=
  ⟨⟨_, rfl, rfl⟩, ⟨_, rfl, rfl⟩, _, _, rfl, rfl⟩

/-- A latched frame of five bytes: two frame words, the second one partly filled, and four accesses. -/
def holdsFrame : State := latched [0x11#8, 0x06#8, 0x00#8, 0x02#8, 0x64#8] idle

/-- The reads of P2, for a frame of five bytes: FRAME_LEN, then as many FRAME_DATA words as it fills. -/
theorem test_readFrame :
    ∃ t, runHost (readFrame small) (List.replicate 4 []) [] holdsFrame =
      .next ([5#32, 0x02000611#32, 0x00000064#32, 0x00000064#32], t) := ⟨_, rfl⟩

theorem witness_WaitIdleAndReadFrame_read :
    holdsFrame.Inv ∧ holdsFrame.block.txWait = false ∧
    [[Move.clock 1], [], [], [.clock 2]].length = (holdsFrame.block.frameLen + 3) / 4 + 2 ∧
    (∀ m ∈ [[Move.clock 1], [], [], [.clock 2]].flatten, ∃ n, m = .clock n) ∧
    performAll [[Move.clock 1], [], [], [.clock 2]].flatten holdsFrame = .next (at_ 2 holdsFrame) := by
  refine ⟨?_, by decide, by decide, by simp, rfl⟩
  constructor <;> decide

end Sys2Proof.Tests
end

section
/-! State family (10_state.md). What a move can do to the pending send, how BITRATE and the frame window are read and
written, and that every other write is ignored. -/

namespace Sys2Proof.Machine

open Sys2Proof.Config

/-! ## Rejection and acceptance of a command -/

/-- A rejection spelled out: CMD_ERR is bit 7 of `st.sticky` (R162, R171). -/
theorem State.reject_eq (s : State) :
    s.reject = { s with block := { s.block with sticky := s.block.sticky ||| 0x80#8 } } := rfl

theorem exec_of_rejects {i : Instr} {s : State} (h : rejects i s) : exec i s = .next s.reject := by
  obtain ⟨-, he⟩ | ⟨hn, -⟩ := exec_cases i s
  · exact he
  · exact absurd h hn

/-- An accepted command passed the checks of R161. -/
theorem not_rejects_of_accepted {m : Move} {s : State} {i : Instr} (h : accepted m s = some i) : ¬ rejects i s := by
  unfold accepted at h
  split at h
  · cases h
  · split at h
    · cases h
    · split at h
      · cases h
      · cases h; assumption

/-- While a send is pending NOP alone is accepted (R162). -/
theorem accepted_eq_nop_of_busy {m : Move} {s : State} {i : Instr} (hb : s.block.txWait = true)
    (h : accepted m s = some i) : i = .nop := by
  by_contra hi
  exact not_rejects_of_accepted h (.inl ⟨hb, hi⟩)

/-! ## Who writes `st.tx_wait` -/

@[simp] theorem Block.pushPend_txWait (cap : Nat) (b : Block) (x : Byte) : (b.pushPend cap x).txWait = b.txWait := by
  unfold Block.pushPend; split <;> rfl

@[simp] theorem Block.foldl_pushPend_txWait (cap : Nat) (new : List Byte) (b : Block) :
    (new.foldl (Block.pushPend cap) b).txWait = b.txWait := by
  induction new generalizing b with
  | nil => rfl
  | cons x xs ih => rw [List.foldl_cons, ih, Block.pushPend_txWait]

@[simp] theorem Block.accumulate_txWait (cap now : Nat) (new : List Byte) (b : Block) :
    (b.accumulate cap now new).txWait = b.txWait := by
  simp [Block.accumulate]

@[simp] theorem Block.raiseIf_txWait (c : Bool) (f : Flag) (b : Block) : (b.raiseIf c f).txWait = b.txWait := by
  cases c <;> rfl

@[simp] theorem Block.judge_txWait (c : List Byte) (lost : Bool) (b : Block) : (b.judge c lost).txWait = b.txWait := by
  obtain ⟨-, h⟩ | ⟨-, -, h⟩ | ⟨-, -, -, h⟩ | ⟨-, -, -, h⟩ := b.judge_cases c lost <;> simp [h]

@[simp] theorem Block.pushTx_txWait (cap : Nat) (x : Byte) (b : Block) : (b.pushTx cap x).txWait = b.txWait := by
  unfold Block.pushTx; split <;> rfl

@[simp] theorem State.transportRead_block (s : State) : s.transportRead.2.block = s.block := by
  obtain ⟨-, tr, n, h⟩ := s.transportRead_spec
  rw [h]

@[simp] theorem State.poll_txWait (s : State) : s.poll.block.txWait = s.block.txWait := by
  obtain ⟨-, h⟩ | ⟨-, -, h⟩ | ⟨-, -, -, h⟩ | ⟨-, -, -, h⟩ := s.poll_cases <;> simp [h]

/-- Of the commands' effects TX_SEND's alone writes `st.tx_wait` (R38). -/
theorem effectOf_txWait {i : Instr} (hi : i ≠ .txSend) (s : State) :
    (effectOf i s).block.txWait = s.block.txWait := by
  cases i with
  | txSend => exact absurd rfl hi
  | rxPoll => exact s.poll_txWait
  | txPush x => exact s.block.pushTx_txWait s.cfg.txCap x
  | _ => rfl

/-- TX_FIRE ends the pending send, however many bytes the transport took (R147, R148). -/
theorem State.txFire_txWait (s : State) : s.txFire.block.txWait = false := by
  obtain ⟨k, tr, n, -, -, h⟩ := s.txFire_eq
  rw [h]; rfl

theorem State.sequencerTurn_enabled {s : State} (h : s.txFireEnabled = true) : s.sequencerTurn = s.txFire := if_pos h

/-- The sequencer's turn starts no send. -/
theorem State.sequencerTurn_txWait_of_idle {s : State} (h : s.block.txWait = false) :
    s.sequencerTurn.block.txWait = false := by
  simp [State.sequencerTurn, State.txFireEnabled, h]

/-! ## BITRATE writes -/

/-- An idle block takes any value (R32). -/
theorem writeBitrate_idle {s : State} (v : Word) (h : s.block.txWait = false) :
    writeBitrate v s = { s with block := { s.block with bitrate := v } } := by
  simp [writeBitrate, h, State.onBlock]

/-- While a send is pending the write is rejected like a command (R32). -/
theorem writeBitrate_busy {s : State} (v : Word) (h : s.block.txWait = true) : writeBitrate v s = s.reject := if_pos h

theorem writeBitrate_txWait (v : Word) (s : State) : (writeBitrate v s).block.txWait = s.block.txWait := by
  unfold writeBitrate; split <;> rfl

/-! ## The freeze of a pending send -/

/-- The block but for its sticky flags, the transport and the line are the same in both states. -/
structure SameButSticky (s t : State) : Prop where
  block     : t.block = { s.block with sticky := t.block.sticky }
  transport : t.transport = s.transport
  line      : t.line = s.line

theorem SameButSticky.reject (s : State) : SameButSticky s s.reject := ⟨rfl, rfl, rfl⟩

theorem SameButSticky.txWait {s t : State} (h : SameButSticky s t) : t.block.txWait = s.block.txWait := by
  rw [h.block]

/-- While a send is pending a move other than the sequencer's turn and reset writes nothing but sticky flags (R38). -/
theorem Performed.sameButSticky_of_busy {m : Move} {s t : State} (h : Performed m s t) (hb : s.block.txWait = true)
    (hf : m ≠ .fire) (hr : m ≠ .reset) : SameButSticky s t := by
  cases h with
  | command i ha =>
    rw [accepted_eq_nop_of_busy hb ha]
    exact ⟨rfl, rfl, rfl⟩
  | rejected v hc ha => exact .reject s
  | bitrateWrite v hm hc => rw [writeBitrate_busy v hb]; exact .reject s
  | fire hm => exact absurd hm hf
  | reset hm => exact absurd hm hr
  | read | statusWrite | ignored | clock => exact ⟨rfl, rfl, rfl⟩

/-- A move that starts a pending send is an accepted TX_SEND (R38). -/
theorem Performed.txSend_of_send_starts {m : Move} {s t : State} (h : Performed m s t) (hi : s.block.txWait = false)
    (ht : t.block.txWait = true) : accepted m s = some .txSend := by
  have hne : t.block.txWait ≠ s.block.txWait := by simp [hi, ht]
  cases h with
  | command i ha =>
    by_cases hs : i = .txSend
    · exact hs ▸ ha
    · exact absurd (effectOf_txWait hs s) hne
  | bitrateWrite v hm hc => exact absurd (writeBitrate_txWait v s) hne
  | fire hm => simp [State.sequencerTurn_txWait_of_idle hi] at ht
  | reset hm => cases ht
  | rejected | read | statusWrite | ignored | clock => exact absurd rfl hne

/-- An accepted command is what the move did. -/
theorem Performed.eq_effectOf {m : Move} {s t : State} {i : Instr} (h : Performed m s t)
    (ha : accepted m s = some i) : t = effectOf i s := by
  have hnone : commandWord m s ≠ none := fun hc => by simp [accepted_eq_none hc] at ha
  cases h with
  | command j hj =>
    obtain rfl : j = i := Option.some.inj (hj.symm.trans ha)
    rfl
  | rejected v hc hr => simp [hr] at ha
  | statusWrite v hm hc | bitrateWrite v hm hc | ignored a v hm hc => exact absurd hc hnone
  | read a w v hm | clock n hm hn | fire hm | reset hm => subst hm; exact absurd rfl hnone

/-- Settles O39: a pending send is started by an accepted TX_SEND, ended by TX_FIRE or reset, and freezes the rest. -/
theorem pendingSendFreezesBlock : Obligations.PendingSendFreezesBlock := by
  intro m s t h
  have hp := perform_cases h
  refine ⟨?sends, hp.txSend_of_send_starts, ?fires, ?resets, ?ends, ?rejectsOthers, ?freezes⟩
  case sends =>
    intro ha
    rw [hp.eq_effectOf ha]
    rfl
  case fires =>
    rintro rfl he
    cases h
    rw [State.sequencerTurn_enabled he]
    exact s.txFire_txWait
  case resets =>
    rintro rfl
    cases h
    rfl
  case ends =>
    intro hb ht
    by_contra hm
    rw [not_or] at hm
    have hkeep := (hp.sameButSticky_of_busy hb hm.1 hm.2).txWait
    simp [hb, ht] at hkeep
  case rejectsOthers =>
    intro hb
    cases ha : accepted m s with
    | none => exact .inl rfl
    | some i => exact .inr (congrArg some (accepted_eq_nop_of_busy hb ha))
  case freezes =>
    intro hb hf hr
    obtain ⟨hblock, htransport, hline⟩ := hp.sameButSticky_of_busy hb hf hr
    exact ⟨hblock, htransport, hline⟩

/-! ## The register map -/

/-- The frame words end inside the window for parameters in range (R6, R22). -/
theorem frameWords_in_window {p : Params} (h : p.legal = true) : 0x100 + 4 * p.foutWords ≤ 4096 := by
  simp only [Params.legal, Params.pendingCapInRange, Bool.and_eq_true, decide_eq_true_eq] at h
  simp only [Params.foutWords, Params.foutCap]
  omega

/-- The reserved offsets of R41. -/
theorem regAt_reserved {p : Params} {off : Nat}
    (h : (0x02C ≤ off ∧ off ≤ 0x0FC) ∨ 0x100 + 4 * p.foutWords ≤ off) : regAt p off = .reserved := by
  unfold regAt
  repeat rw [if_neg (by omega)]

/-- FRAME_DATA[i] stands at 0x100 + 4i (R22). -/
theorem regAt_frameData {p : Params} {i : Nat} (h : i < p.foutWords) : regAt p (0x100 + 4 * i) = .frameData i := by
  have hin : 0x100 ≤ 0x100 + 4 * i ∧ 0x100 + 4 * i < 0x100 + 4 * p.foutWords := by omega
  unfold regAt
  iterate 11 rw [if_neg (by omega)]
  rw [if_pos hin, Nat.add_sub_cancel_left, Nat.mul_div_cancel_left i (by decide)]

/-- A write to a register other than CMD, STATUS and BITRATE is ignored (R41). -/
theorem writeReg_ignored {r : Reg} (hc : r ≠ .cmd) (hs : r ≠ .status) (hb : r ≠ .bitrate) (v : Word) (s : State) :
    writeReg r v s = .next s := by
  cases r with
  | cmd => exact absurd rfl hc
  | status => exact absurd rfl hs
  | bitrate => exact absurd rfl hb
  | _ => rfl

/-- A host write to an offset other than those of CMD, STATUS and BITRATE changes nothing (R41). -/
theorem perform_wrMove_ignored (s : State) {off : Nat} (v : Word) (hl : off < 4096) (ha : off % 4 = 0)
    (hc : off ≠ 0x000) (hs : off ≠ 0x004) (hb : off ≠ 0x010) : perform (wrMove s.cfg off v) s = .next s := by
  rw [perform_wrMove s v hl ha]
  exact writeReg_ignored (fun h => hc (regAt_eq_cmd h)) (fun h => hs (regAt_eq_status h))
    (fun h => hb (regAt_eq_bitrate h)) v s

/-- Settles O49: every read answers with the state unchanged but for the value read, every other write is ignored. -/
theorem readsAndIgnoredWrites : Obligations.ReadsAndIgnoredWrites := by
  intro s off v _ hl ha
  refine ⟨⟨_, perform_rdMove s hl ha, fun hr => ?_⟩, perform_wrMove_ignored s v hl ha⟩
  rw [regAt_reserved hr]
  rfl

/-! ## The frame window -/

/-- The bytes of a bus word, byte 0 in bits 7:0 (R51). -/
theorem extractLsb'_wordOfBytes (b0 b1 b2 b3 : Byte) :
    (wordOfBytes b0 b1 b2 b3).extractLsb' 0 8 = b0 ∧ (wordOfBytes b0 b1 b2 b3).extractLsb' 8 8 = b1 ∧
      (wordOfBytes b0 b1 b2 b3).extractLsb' 16 8 = b2 ∧ (wordOfBytes b0 b1 b2 b3).extractLsb' 24 8 = b3 := by
  unfold wordOfBytes
  refine ⟨?_, ?_, ?_, ?_⟩ <;> · ext k hk; simp [BitVec.getElem_extractLsb']; grind

/-- FRAME_DATA[i] packs four bytes of the frame window (R30). -/
theorem Block.extractLsb'_frameWord (b : Block) (i : Nat) {j : Nat} (hj : j < 4) :
    (b.frameWord i).extractLsb' (8 * j) 8 = b.frameByte (4 * i + j) := by
  obtain ⟨h0, h1, h2, h3⟩ := extractLsb'_wordOfBytes (b.frameByte (4 * i)) (b.frameByte (4 * i + 1))
    (b.frameByte (4 * i + 2)) (b.frameByte (4 * i + 3))
  match j, hj with
  | 0, _ => exact h0
  | 1, _ => exact h1
  | 2, _ => exact h2
  | 3, _ => exact h3

/-- Settles O47: FRAME_DATA[i] is in the window, packs the frame's bytes, and ignores writes. -/
theorem frameDataWindow : Obligations.FrameDataWindow := by
  intro s i j v hlegal hi hj
  have hend := frameWords_in_window hlegal
  have hl : 0x100 + 4 * i < 4096 := by omega
  have ha : (0x100 + 4 * i) % 4 = 0 := by omega
  refine ⟨⟨s.block.frameWord i, ?_, s.block.extractLsb'_frameWord i hj⟩,
    perform_wrMove_ignored s v hl ha (by omega) (by omega) (by omega)⟩
  rw [perform_rdMove s hl ha, regAt_frameData hi]
  rfl

/-! ## BITRATE -/

/-- STATUS bit 3 is CFG_ERR (R24). -/
theorem Block.status_getLsbD_three (b : Block) : b.status.getLsbD 3 = b.cfgErr := by
  simp only [Block.status, BitVec.getLsbD_append, BitVec.getLsbD_ofBool]
  simp

/-- Settles O48: BITRATE is written while idle, rejects writes while busy, and reads back. -/
theorem bitrateRegister : Obligations.BitrateRegister := by
  refine ⟨fun s v => ?_, rfl⟩
  have hw : perform (wrMove s.cfg 0x010 v) s = .next (writeBitrate v s) := perform_wrMove s v (by decide) rfl
  refine ⟨?idleWrite, ?busyWrite, perform_rdMove s (by decide) rfl, ?cfgErr, ?zeroRejects, s.resetBlock, rfl, rfl⟩
  case idleWrite =>
    intro hi
    rw [hw, writeBitrate_idle v hi]
  case busyWrite =>
    intro hb
    rw [hw, writeBitrate_busy v hb, State.reject_eq]
  case cfgErr =>
    rw [Block.status_getLsbD_three]
    exact beq_iff_eq
  case zeroRejects =>
    intro hz
    rw [← State.reject_eq]
    exact ⟨exec_of_rejects (.inr ⟨.inl rfl, hz⟩), exec_of_rejects (.inr ⟨.inr rfl, hz⟩)⟩

end Sys2Proof.Machine
end

section
/-! Memory family (20_memory.md). The accesses that have no effect on the block: narrow or misaligned ones, and those of a second
host. -/

namespace Sys2Proof.Machine

/-- An access that the window decodes (R50) and that is not 32 bits wide at a multiple of 4 is a fault (R52). -/
theorem hostAccess_fault_of_narrow_or_misaligned {a : Access} {s : State} {off : Nat}
    (haddr : accessAddr a = s.cfg.base + off) (hl : off < 4096) (hbad : accessWidth a ≠ 4 ∨ off % 4 ≠ 0) :
    hostAccess a s = .fault (.busAccessFault off (accessWidth a)) := by
  have hin : ¬(s.cfg.base + off < s.cfg.base ∨ s.cfg.base + 4096 ≤ s.cfg.base + off) := by omega
  rw [hostAccess, haddr, if_neg hin, Nat.add_sub_cancel_left, if_pos hbad]

/-- Settles O50: a read and a write both meet the alignment check of a host access, which comes before any register. -/
theorem narrowOrMisalignedFaults : Obligations.NarrowOrMisalignedFaults := by
  intro s off width v hl hbad
  exact ⟨hostAccess_fault_of_narrow_or_misaligned (a := .read _ width) rfl hl hbad,
    hostAccess_fault_of_narrow_or_misaligned (a := .write _ width v) rfl hl hbad⟩

/-- Settles O52: a second host's access is refused before the state is looked at. -/
theorem secondHostRefused : Obligations.SecondHostRefused := by
  intro s a
  rfl

end Sys2Proof.Machine
end

section
/-! Encoding family (30_encoding.md). The codes of each format, what the decoder answers by format, and that an illegal word
written to CMD is rejected. -/

namespace Sys2Proof

/-! ## The opcode map -/

/-- The format-N codes of R73. -/
theorem opFormat_eq_n_iff (op : Byte) :
    opFormat op = some .n ↔ op ∈ [0x00#8, 0x01#8, 0x03#8, 0x10#8, 0x11#8, 0x20#8, 0x22#8] := by
  unfold opFormat
  split_ifs <;> simp [*]

/-- The format-B codes of R73. -/
theorem opFormat_eq_b_iff (op : Byte) : opFormat op = some .b ↔ op ∈ [0x02#8, 0x04#8, 0x21#8] := by
  unfold opFormat
  split_ifs <;> simp [*]

/-- The reserved codes of R74 clause 2: none of the ten of R73. -/
theorem opFormat_eq_none_iff (op : Byte) :
    opFormat op = none ↔
      op ∉ [0x00#8, 0x01#8, 0x02#8, 0x03#8, 0x04#8, 0x10#8, 0x11#8, 0x20#8, 0x21#8, 0x22#8] := by
  unfold opFormat
  split_ifs <;> simp [*]

/-! ## The decoder, by format -/

/-- The operand check fails exactly on an operand (R75). -/
theorem noOperand_eq_error_iff (imm8 : Byte) (i : Instr) : (∃ e, noOperand imm8 i = .error e) ↔ imm8 ≠ 0#8 := by
  unfold noOperand
  split <;> simp [*]

/-- Reserved bits are looked at first (R75). -/
theorem decodeFields_of_rsv {f : CmdFields} (hr : f.rsv ≠ 0#16) : decodeFields f = .error .reservedBits := if_pos hr

/-- A format-N code is a command with the operand check (R75). -/
theorem decodeFields_of_formatN {f : CmdFields} (hr : f.rsv = 0#16) (hf : opFormat f.op = some .n) :
    ∃ i, decodeFields f = noOperand f.imm8 i := by
  simp only [opFormat_eq_n_iff, List.mem_cons, List.not_mem_nil, or_false] at hf
  rcases hf with h | h | h | h | h | h | h <;> simp only [decodeFields, hr, h] <;> exact ⟨_, rfl⟩

/-- A format-B code is a command with any operand (R75). -/
theorem decodeFields_of_formatB {f : CmdFields} (hr : f.rsv = 0#16) (hf : opFormat f.op = some .b) :
    ∃ i, decodeFields f = .ok i := by
  simp only [opFormat_eq_b_iff, List.mem_cons, List.not_mem_nil, or_false] at hf
  rcases hf with h | h | h <;> simp only [decodeFields, hr, h] <;> exact ⟨_, rfl⟩

/-- A reserved code is no command (R75). -/
theorem decodeFields_of_reserved {f : CmdFields} (hr : f.rsv = 0#16) (hf : opFormat f.op = none) :
    decodeFields f = .error .reservedOp := by
  simp only [opFormat_eq_none_iff, List.mem_cons, List.not_mem_nil, or_false, not_or] at hf
  simp [decodeFields, hr, hf]

/-- Decoding fails exactly where a clause of R74 holds. -/
theorem decodeFields_eq_error_iff (f : CmdFields) :
    (∃ e, decodeFields f = .error e) ↔
      f.rsv ≠ 0#16 ∨ opFormat f.op = none ∨ (opFormat f.op = some .n ∧ f.imm8 ≠ 0#8) := by
  by_cases hr : f.rsv = 0#16
  · cases hf : opFormat f.op with
    | none => simp [decodeFields_of_reserved hr hf]
    | some fmt =>
      cases fmt with
      | n =>
        obtain ⟨i, hi⟩ := decodeFields_of_formatN hr hf
        simp [hi, noOperand_eq_error_iff, hr]
      | b =>
        obtain ⟨i, hi⟩ := decodeFields_of_formatB hr hf
        simp [hi, hr]
  · simp [decodeFields_of_rsv hr, hr]

end Sys2Proof

namespace Sys2Proof.Machine

/-- An illegal word is rejected before its command is looked at (R76). -/
theorem issue_of_decode_error {v : Word} {e : DecodeError} (h : decode v = .error e) (s : State) :
    issue v s = .next s.reject := by
  rw [issue, h]

/-- Settles O3: the clauses of R74 are read off the opcode map, and the write to CMD is a rejection. -/
theorem illegalWordsRejected : Obligations.IllegalWordsRejected := by
  intro v
  refine ⟨?clauses, fun s ⟨e, he⟩ => ?effect⟩
  case clauses =>
    have h := decodeFields_eq_error_iff (fieldsOf v)
    rwa [opFormat_eq_none_iff, opFormat_eq_n_iff] at h
  case effect =>
    rw [perform_cmdWrite, issue_of_decode_error he, State.reject_eq]

end Sys2Proof.Machine
end

section
/-! Checksum family (40_checksum.md). The effect of a command that is accepted or meets a busy block, the arithmetic of
the LRC sum, and that framing commutes with a change of the CRC accumulator. -/

namespace Sys2Proof.Machine

/-! ## A command accepted, a command met busy -/

theorem exec_of_not_rejects {i : Instr} {s : State} (h : ¬ rejects i s) : exec i s = .next (effectOf i s) := by
  obtain ⟨hr, -⟩ | ⟨-, he⟩ := exec_cases i s
  · exact absurd hr h
  · exact he

/-- On an idle block a command that needs no bitrate has its effect (R161, R163). -/
theorem exec_of_idle {i : Instr} {s : State} (h : s.block.txWait = false) (hp : i ≠ .rxPoll) (hs : i ≠ .txSend) :
    exec i s = .next (effectOf i s) :=
  exec_of_not_rejects (by simp [rejects, h, hp, hs])

/-- While a send is pending every command but NOP only sets CMD_ERR (R162). -/
theorem exec_of_busy {i : Instr} {s : State} (h : s.block.txWait = true) (hn : i ≠ .nop) :
    exec i s = .next { s with block := { s.block with sticky := s.block.sticky ||| 0x80#8 } } :=
  exec_of_rejects (.inl ⟨h, hn⟩)

/-- A move that writes a word to CMD is the write of a command (R78). -/
theorem eq_cmdWrite_of_commandWord {m : Move} {s : State} {v : Word} (h : commandWord m s = some v) :
    m = cmdWrite s.cfg v := by
  unfold commandWord at h
  split at h
  case h_1 a w u =>
    obtain ⟨⟨rfl, rfl⟩, rfl⟩ : (a = s.cfg.base ∧ w = 4) ∧ u = v := by simpa using h
    rfl
  case h_2 => cases h

/-- The word of an accepted command, written to CMD. -/
theorem exists_cmdWrite_of_accepted {m : Move} {s : State} {i : Instr} (h : accepted m s = some i) :
    ∃ v, m = cmdWrite s.cfg v ∧ decode v = .ok i := by
  unfold accepted at h
  split at h
  case h_1 => cases h
  case h_2 v hv =>
    refine ⟨v, eq_cmdWrite_of_commandWord hv, ?_⟩
    split at h
    case h_1 => cases h
    case h_2 j hj =>
      obtain ⟨-, rfl⟩ : ¬ rejects j s ∧ j = i := by simpa using h
      exact hj

/-- A move whose command is accepted has that command's effect (R161). -/
theorem perform_of_accepted {m : Move} {s : State} {i : Instr} (h : accepted m s = some i) :
    perform m s = .next (effectOf i s) := by
  obtain ⟨v, rfl, hv⟩ := exists_cmdWrite_of_accepted h
  rw [perform_cmdWrite, issue, hv]
  exact exec_of_not_rejects (not_rejects_of_accepted h)

/-- CRC_VALUE shows the accumulator (R25). -/
theorem perform_rdMove_crcValue (s : State) :
    perform (rdMove s.cfg 0x008) s = .next { s with readData := s.block.crcAcc.setWidth 32 } :=
  perform_rdMove s (by decide) rfl

/-! ## The LRC in plain arithmetic -/

/-- Bytes added one at a time, from any sum: the carries out of bit 7 are lost, no other (R95). -/
theorem toNat_foldl_add (l : List Byte) (s : Byte) :
    (l.foldl (· + ·) s).toNat = (s.toNat + (l.map BitVec.toNat).sum) % 256 := by
  induction l generalizing s with
  | nil => simp [Nat.mod_eq_of_lt s.isLt]
  | cons x xs ih =>
    rw [List.foldl_cons, ih, BitVec.toNat_add, List.map_cons, List.sum_cons]
    omega

theorem toNat_lrcSumOf (l : List Byte) : (lrcSumOf l).toNat = (l.map BitVec.toNat).sum % 256 := by
  simpa [lrcSumOf] using toNat_foldl_add l 0#8

theorem toNat_lrcOfSum (s : Byte) : (lrcOfSum s).toNat = (256 - s.toNat) % 256 := by
  simp [lrcOfSum]

theorem setWidth_lrcOfSum (s : Byte) : (lrcOfSum s).setWidth 32 = BitVec.ofNat 32 ((256 - s.toNat) % 256) := by
  apply BitVec.eq_of_toNat_eq
  rw [BitVec.toNat_setWidth, toNat_lrcOfSum, BitVec.toNat_ofNat]

/-- LRC_VALUE shows the negated sum (R26). -/
theorem perform_rdMove_lrcValue (s : State) :
    perform (rdMove s.cfg 0x00C) s =
      .next { s with readData := BitVec.ofNat 32 ((256 - s.block.lrcSum.toNat) % 256) } := by
  rw [← setWidth_lrcOfSum]
  exact perform_rdMove s (by decide) rfl

/-- Settles O13: the folded sum is the sum mod 256, and negation of a byte is subtraction from 256. -/
theorem lrcFunction : Obligations.LrcFunction := by
  intro l
  rw [lrc, toNat_lrcOfSum, toNat_lrcSumOf]

/-! ## The checksum commands -/

/-- Settles O14: the effect of CRC_INIT on an idle block, its read-back, and its rejection. -/
theorem crcInitEffect : Obligations.CrcInitEffect :=
  ⟨rfl, fun s => ⟨fun hi => ⟨exec_of_idle hi nofun nofun, perform_rdMove_crcValue (effectOf .crcInit s)⟩,
    fun hb => exec_of_busy hb nofun⟩⟩

/-- Settles O15: the effect of CRC_BYTE on an idle block and its rejection. -/
theorem crcByteEffect : Obligations.CrcByteEffect :=
  ⟨fun _ => rfl, fun _ _ => ⟨fun hi => exec_of_idle hi nofun nofun, fun hb => exec_of_busy hb nofun⟩⟩

/-- Settles O16: the effect of LRC_INIT on an idle block, its read-back, and its rejection. -/
theorem lrcInitEffect : Obligations.LrcInitEffect := by
  refine ⟨rfl, fun s => ⟨fun hi => ⟨exec_of_idle hi nofun nofun, ?readBack⟩, fun hb => exec_of_busy hb nofun⟩⟩
  case readBack =>
    simpa [effectOf, State.onBlock] using perform_rdMove_lrcValue (effectOf .lrcInit s)

/-- Byte addition is addition mod 256 (R97). -/
theorem add_eq_ofNat_mod (a b : Byte) : a + b = BitVec.ofNat 8 ((a.toNat + b.toNat) % 256) := by
  apply BitVec.eq_of_toNat_eq
  simp

/-- Settles O17: the effect of LRC_BYTE on an idle block in plain arithmetic, its rejection, and the value LRC_VALUE reads. -/
theorem lrcByteEffect : Obligations.LrcByteEffect := by
  refine ⟨fun _ => rfl, fun s x => ⟨fun hi => ?idle, fun hb => exec_of_busy hb nofun⟩, perform_rdMove_lrcValue⟩
  case idle =>
    rw [← add_eq_ofNat_mod]
    exact exec_of_idle hi nofun nofun

/-! ## Updates that commute with a change of the CRC accumulator -/

/-- The block with another CRC accumulator. -/
def Block.withCrc (c : Half) (b : Block) : Block := { b with crcAcc := c }

@[simp] theorem Block.withCrc_frameValid (c : Half) (b : Block) : (b.withCrc c).frameValid = b.frameValid := rfl

@[simp] theorem Block.raise_withCrc (c : Half) (f : Flag) (b : Block) :
    (b.withCrc c).raise f = (b.raise f).withCrc c := rfl

@[simp] theorem Block.raiseIf_withCrc (c : Half) (v : Bool) (f : Flag) (b : Block) :
    (b.withCrc c).raiseIf v f = (b.raiseIf v f).withCrc c := by
  cases v <;> rfl

@[simp] theorem Block.recordPoll_withCrc (c : Half) (n : Nat) (code : RxCode) (b : Block) :
    (b.withCrc c).recordPoll n code = (b.recordPoll n code).withCrc c := rfl

@[simp] theorem Block.latchFrame_withCrc (c : Half) (f : List Byte) (b : Block) :
    (b.withCrc c).latchFrame f = (b.latchFrame f).withCrc c := rfl

@[simp] theorem Block.pushPend_withCrc (c : Half) (cap : Nat) (x : Byte) (b : Block) :
    (b.withCrc c).pushPend cap x = (b.pushPend cap x).withCrc c := by
  simp only [Block.pushPend, apply_ite (Block.withCrc c)]
  rfl

@[simp] theorem Block.accumulate_withCrc (c : Half) (cap now : Nat) (new : List Byte) (b : Block) :
    (b.withCrc c).accumulate cap now new = (b.accumulate cap now new).withCrc c := by
  have hfold : new.foldl (Block.pushPend cap) (b.withCrc c) = (new.foldl (Block.pushPend cap) b).withCrc c :=
    List.foldl_hom (Block.withCrc c) fun b x => b.pushPend_withCrc c cap x
  simp only [Block.accumulate, hfold]
  rfl

@[simp] theorem Block.judge_withCrc (c : Half) (l : List Byte) (lost : Bool) (b : Block) :
    (b.withCrc c).judge l lost = (b.judge l lost).withCrc c := by
  simp only [Block.judge, apply_ite (Block.withCrc c), withCrc_frameValid, raiseIf_withCrc, raise_withCrc,
    latchFrame_withCrc, recordPoll_withCrc]

@[simp] theorem Block.sendDone_withCrc (c : Half) (k len now : Nat) (b : Block) :
    (b.withCrc c).sendDone k len now = (b.sendDone k len now).withCrc c := by
  by_cases h : 1 ≤ k
  · simp only [Block.sendDone, if_pos h]
    rfl
  · simp only [Block.sendDone, if_neg h]
    rfl

/-- The state with another CRC accumulator. -/
def State.withCrc (c : Half) (s : State) : State := s.onBlock (Block.withCrc c)

theorem State.onBlock_withCrc {f : Block → Block} (c : Half) (s : State)
    (h : f (s.block.withCrc c) = (f s.block).withCrc c) : (s.withCrc c).onBlock f = (s.onBlock f).withCrc c :=
  congrArg (fun b => { s with block := b }) h

theorem State.transportRead_withCrc (c : Half) (s : State) :
    (s.withCrc c).transportRead = (s.transportRead.1, s.transportRead.2.withCrc c) := by
  cases h : s.transport.reads <;> simp [State.transportRead, State.withCrc, State.onBlock, h]

theorem State.transportWrite_withCrc (c : Half) (len : Nat) (s : State) :
    (s.withCrc c).transportWrite len = ((s.transportWrite len).1, (s.transportWrite len).2.withCrc c) := by
  cases h : s.transport.writes <;> simp [State.transportWrite, State.withCrc, State.onBlock, h]

theorem State.putOnLine_withCrc (c : Half) (k : Nat) (w : List Byte) (s : State) :
    (s.withCrc c).putOnLine k w = (s.putOnLine k w).withCrc c := by
  simp only [State.putOnLine, apply_ite (State.withCrc c)]
  rfl

/-! ## Framing is blind to the CRC accumulator -/

/-- An update of the state that neither reads nor writes `st.crc_acc`: it commutes with a change of it. -/
def State.CrcBlind (f : State → State) : Prop := ∀ c s, f (s.withCrc c) = (f s).withCrc c

/-- To commute with putting the present accumulator in place is to keep it. -/
theorem State.CrcBlind.crcAcc_eq {f : State → State} (h : State.CrcBlind f) (s : State) :
    (f s).block.crcAcc = s.block.crcAcc :=
  congrArg (·.block.crcAcc) (h s.block.crcAcc s)

theorem State.pollSilence_crcBlind : State.CrcBlind State.pollSilence := by
  intro c s
  have hlen : (s.withCrc c).block.pendLen = s.block.pendLen := rfl
  have hsilent : (s.withCrc c).rxSilent = s.rxSilent := rfl
  simp only [State.pollSilence, hlen, hsilent, apply_ite (State.withCrc c)]
  have hjudge : ((s.withCrc c).onBlock fun b => b.emptyPend.judge b.pending b.pendOvf) =
      (s.onBlock fun b => b.emptyPend.judge b.pending b.pendOvf).withCrc c :=
    s.onBlock_withCrc c (s.block.emptyPend.judge_withCrc c s.block.pending s.block.pendOvf)
  rw [hjudge]
  rfl

theorem State.poll_crcBlind : State.CrcBlind State.poll := by
  intro c s
  unfold State.poll
  rw [s.transportRead_withCrc c]
  obtain ⟨new, s'⟩ := s.transportRead
  cases new with
  | nil => exact State.pollSilence_crcBlind c s'
  | cons x xs => exact s'.onBlock_withCrc c (s'.block.accumulate_withCrc c s'.cfg.pendingCap s'.now (x :: xs))

theorem State.txFire_crcBlind : State.CrcBlind State.txFire := by
  intro c s
  have hw : (s.withCrc c).block.payload = s.block.payload := rfl
  simp only [State.txFire, hw, s.transportWrite_withCrc c, State.putOnLine_withCrc]
  exact State.onBlock_withCrc c _ (Block.sendDone_withCrc c _ _ _ _)

theorem State.sequencerTurn_crcBlind : State.CrcBlind State.sequencerTurn := by
  intro c s
  have hen : (s.withCrc c).txFireEnabled = s.txFireEnabled := rfl
  rw [State.sequencerTurn, State.sequencerTurn, hen, s.txFire_crcBlind c, apply_ite (State.withCrc c)]

theorem effectOf_txSend_crcBlind : State.CrcBlind (effectOf .txSend) := fun _ _ => rfl

/-- A command is accepted or not without a look at `st.crc_acc`. -/
theorem accepted_withCrc (m : Move) (c : Half) (s : State) : accepted m (s.withCrc c) = accepted m s := rfl

/-- A move that one and the same blind update performs, whatever the accumulator, answers alike but for it. -/
theorem perform_of_crcBlind {f : State → State} {m : Move} {s : State} (hf : State.CrcBlind f)
    (hm : ∀ c, perform m (s.withCrc c) = .next (f (s.withCrc c))) :
    ∃ t, perform m s = .next t ∧ t.block.crcAcc = s.block.crcAcc ∧
      ∀ c, perform m (s.withCrc c) = .next (t.withCrc c) :=
  ⟨f s, hm s.block.crcAcc, hf.crcAcc_eq s, fun c => (hm c).trans (congrArg _ (hf c s))⟩

/-- Settles O20: a poll, a send and TX_FIRE are blind to the accumulator, and so is the acceptance of a command. -/
theorem framingIgnoresAccumulator : Obligations.FramingIgnoresAccumulator := by
  rintro m s (hp | hs | ⟨rfl, -⟩)
  · exact perform_of_crcBlind State.poll_crcBlind fun c => perform_of_accepted ((accepted_withCrc m c s).trans hp)
  · exact perform_of_crcBlind effectOf_txSend_crcBlind fun c => perform_of_accepted ((accepted_withCrc m c s).trans hs)
  · exact perform_of_crcBlind State.sequencerTurn_crcBlind fun _ => rfl

end Sys2Proof.Machine
end

section
/-! Receive boundary family (41_rx_boundary.md). What an accepted poll does by what it read and by how long the line has been
silent, how a complete candidate is judged, the packet spacing, and FRAME_ACK. -/

namespace Sys2Proof.Machine

open Sys2Proof.Config

/-! ## An accepted poll -/

/-- With the block idle and a bitrate set, a poll is accepted (R161, R163). -/
theorem exec_rxPoll_of_ready {s : State} (hi : s.block.txWait = false) (hb : s.block.bitrate ≠ 0#32) :
    exec .rxPoll s = .next s.poll :=
  exec_of_not_rejects (by simp [rejects, hi, hb])

/-- The transport's draw leaves the block as it was, so that an update after it starts from `s.block`. -/
theorem State.onBlock_transportRead (s : State) (f : Block → Block) :
    s.transportRead.2.onBlock f = { s.transportRead.2 with block := f s.block } := by
  rw [State.onBlock, State.transportRead_block]

/-- A poll that got bytes (R114). -/
theorem State.poll_of_bytes {s : State} (h : s.transportRead.1 ≠ []) :
    s.poll = { s.transportRead.2 with
      block := s.block.accumulate s.cfg.pendingCap s.now s.transportRead.1 } := by
  rw [← s.onBlock_transportRead (·.accumulate s.cfg.pendingCap s.now s.transportRead.1)]
  obtain ⟨-, hp⟩ | ⟨hn, -⟩ | ⟨hn, -⟩ | ⟨hn, -⟩ := s.poll_cases
  · exact hp
  all_goals exact absurd hn h

/-- A poll that got no bytes, by whether a candidate is pending and whether the line has been silent (R115). -/
theorem State.poll_of_noBytes {s : State} (h : s.transportRead.1 = []) :
    s.poll = { s.transportRead.2 with
      block :=
        if s.block.pendLen = 0 then s.block.recordPoll 0 .idle
        else if s.elapsed s.block.tLastRx < s.pspace then s.block.recordPoll 0 .waiting
        else s.block.emptyPend.judge s.block.pending s.block.pendOvf } := by
  obtain ⟨hn, -⟩ | ⟨-, h0, hp⟩ | ⟨-, h0, hs, hp⟩ | ⟨-, h0, hs, hp⟩ := s.poll_cases
  · exact absurd h hn
  · rw [hp, State.onBlock_transportRead, if_pos h0]
  · rw [hp, State.onBlock_transportRead, if_neg h0, if_pos hs]
  · rw [hp, State.onBlock_transportRead, if_neg h0, if_neg (Nat.not_lt.mpr hs)]

/-- A poll at silence judges the pending candidate (R112, R115). -/
theorem State.poll_of_silence {s : State} (h : s.transportRead.1 = []) (h0 : s.block.pendLen ≠ 0)
    (hs : s.pspace ≤ s.elapsed s.block.tLastRx) :
    s.poll = { s.transportRead.2 with
      block := s.block.emptyPend.judge s.block.pending s.block.pendOvf } := by
  rw [State.poll_of_noBytes h, if_neg h0, if_neg (Nat.not_lt.mpr hs)]

/-- Settles O27: the received bytes are pushed to PEND in order, then both timestamps and RX_RESULT are written. -/
theorem pollAppendsBytes : Obligations.PollAppendsBytes := by
  rintro s new hinv hi hb rfl hne
  obtain ⟨pend, hsize, htake, hfold⟩ := Block.foldl_pushPend s.cfg.pendingCap s.transportRead.1 s.block
    hinv.pendSize hinv.pendLenLe
  refine ⟨s.poll, exec_rxPoll_of_ready hi hb, ?_⟩
  rw [State.poll_of_bytes hne, Block.accumulate, hfold]
  exact ⟨htake, hsize.trans hinv.pendSize.symm, rfl⟩

/-! ## The pending list -/

/-- The sizes and lengths of the buffers are part of the invariant. -/
theorem State.Inv.buffersWf {s : State} (h : s.Inv) : s.block.buffersWf s.cfg :=
  ⟨h.pendSize, h.pendLenLe, h.foutSize, h.frameLenLe, h.txbSize, h.txLenLe⟩

/-- Emptying PEND where no byte was lost. -/
theorem Block.emptyPend_of_kept {b : Block} (h : b.pendOvf = false) : b.emptyPend = { b with pendLen := 0 } := by
  rw [Block.emptyPend, ← h]

/-- The first bytes of the pending list are the first of PEND (R27). -/
theorem Block.take_pending (b : Block) {k : Nat} (hk : k ≤ b.pendLen) : b.pending.take k = b.pend.take k := by
  rw [Block.pending, List.take_take, Nat.min_eq_left hk]

/-- Byte `k` of the pending list is byte `k` of PEND (R27). -/
theorem Block.getD_pending (b : Block) {k : Nat} (hk : k < b.pendLen) : b.pending.getD k 0#8 = b.pend.getD k 0#8 := by
  simp [Block.pending, List.getD_eq_getElem?_getD, List.getElem?_take_of_lt hk]

/-! ## A candidate judged -/

/-- Judging writes the frame elements, the sticky flags and RX_RESULT only. -/
theorem Block.judge_frame (c : List Byte) (lost : Bool) (b : Block) :
    b.judge c lost = { b with
      fout := (b.judge c lost).fout
      frameLen := (b.judge c lost).frameLen
      frameValid := (b.judge c lost).frameValid
      sticky := (b.judge c lost).sticky
      rxResult := (b.judge c lost).rxResult } := by
  obtain ⟨-, h⟩ | ⟨-, -, h⟩ | ⟨-, -, -, h⟩ | ⟨-, -, -, h⟩ := b.judge_cases c lost <;> rw [h]
  case inr.inr.inl => cases b.frameValid <;> rfl
  all_goals rfl

/-- A candidate that lost bytes is discarded with no flag (R116). -/
theorem Block.judge_lost (c : List Byte) (b : Block) : b.judge c true = b.recordPoll 0 .discardOvf := rfl

/-- A candidate of 3 bytes or fewer is discarded unread (R116). -/
theorem Block.judge_short {c : List Byte} (h : c.length ≤ 3) (b : Block) :
    b.judge c false = (b.raise .rxShort).recordPoll 0 .discardShort := if_pos h

/-- The last two bytes of a candidate are the CRC of those before, low byte first (R117). -/
def CrcMatches (c : List Byte) : Prop :=
  crc16 (c.take (c.length - 2)) = crcOfBytes (c.getD (c.length - 2) 0#8) (c.getD (c.length - 1) 0#8)

/-- A candidate whose CRC matches is latched without it, over a frame still valid with FRAME_OVR (R117, R118). -/
theorem Block.judge_match {c : List Byte} (h4 : 4 ≤ c.length) (hc : CrcMatches c) (b : Block) :
    b.judge c false =
      ((b.raiseIf b.frameValid .frameOvr).latchFrame (c.take (c.length - 2))).recordPoll 0 .frame := by
  obtain ⟨hl, -⟩ | ⟨-, h3, -⟩ | ⟨-, -, -, h⟩ | ⟨-, -, hm, -⟩ := b.judge_cases c false
  · cases hl
  · omega
  · exact h
  · exact absurd hc hm

/-- A candidate whose CRC does not match is discarded (R117). -/
theorem Block.judge_mismatch {c : List Byte} (h4 : 4 ≤ c.length) (hc : ¬ CrcMatches c) (b : Block) :
    b.judge c false = (b.raise .rxCrc).recordPoll 0 .discardCrc := by
  obtain ⟨hl, -⟩ | ⟨-, h3, -⟩ | ⟨-, -, hm, -⟩ | ⟨-, -, -, h⟩ := b.judge_cases c false
  · cases hl
  · omega
  · exact absurd hm hc
  · exact h

/-- Settles O28: the three branches of a poll without bytes. -/
theorem pollWithoutBytes : Obligations.PollWithoutBytes := by
  intro s hi hb hn
  rw [exec_rxPoll_of_ready hi hb]
  refine ⟨fun h0 => ?idle, fun h0 hs => ?waiting, fun h0 hs => ⟨s.poll, rfl, ?silent⟩⟩
  case idle =>
    rw [State.poll_of_noBytes hn, if_pos h0]
    rfl
  case waiting =>
    rw [State.poll_of_noBytes hn, if_neg h0, if_pos hs]
    rfl
  case silent =>
    rw [State.poll_of_silence hn h0 hs, Block.judge_frame]
    exact ⟨rfl, rfl, rfl, rfl, rfl⟩

/-- Settles O29: the first two checks on a complete candidate. -/
theorem pollDiscardsShortOrLost : Obligations.PollDiscardsShortOrLost := by
  intro s hinv hi hb hn h0 hs
  rw [exec_rxPoll_of_ready hi hb, State.poll_of_silence hn h0 hs]
  refine ⟨fun hlost => ?lost, fun hkept h3 => ?short⟩
  case lost =>
    rw [hlost, Block.judge_lost]
    rfl
  case short =>
    have hc : s.block.pending.length ≤ 3 := (List.length_take_le _ _).trans h3
    rw [hkept, Block.judge_short hc, Block.emptyPend_of_kept hkept]
    rfl

/-- The CRC check of the pending candidate, read off PEND (R117). -/
theorem crcMatches_pending_iff {b : Block} (hl : b.pending.length = b.pendLen) (h0 : b.pendLen ≠ 0) :
    CrcMatches b.pending ↔ crc16 (b.pend.take (b.pendLen - 2)) =
      crcOfBytes (b.pend.getD (b.pendLen - 2) 0#8) (b.pend.getD (b.pendLen - 1) 0#8) := by
  rw [CrcMatches, hl, b.take_pending (by omega), b.getD_pending (by omega), b.getD_pending (by omega)]

/-- Settles O30: the CRC check decides between the latch and the discard. -/
theorem pollJudgesCrc : Obligations.PollJudgesCrc := by
  rintro s m hinv hi hb hn hs hkept rfl h4
  have hl : s.block.pending.length = s.block.pendLen := s.block.pending_length s.cfg hinv.buffersWf
  have h0 : s.block.pendLen ≠ 0 := by omega
  have hc := crcMatches_pending_iff hl h0
  rw [exec_rxPoll_of_ready hi hb, State.poll_of_silence hn h0 hs, hkept, Block.emptyPend_of_kept hkept]
  refine ⟨fun hm => ?latched, fun hm => ?discarded⟩
  case latched =>
    have hbody : (s.block.pend.take (s.block.pendLen - 2)).length = s.block.pendLen - 2 :=
      List.length_take_of_le ((Nat.sub_le _ 2).trans (hinv.pendLenLe.trans_eq hinv.pendSize.symm))
    rw [Block.judge_match (by omega) (hc.mpr hm), hl, s.block.take_pending (Nat.sub_le _ 2), Block.latchFrame, hbody]
    cases s.block.frameValid <;> rfl
  case discarded =>
    rw [Block.judge_mismatch (by omega) (mt hc.mp hm)]
    rfl

/-! ## The packet spacing -/

/-- Division first, then the multiple (R110). -/
theorem packetSpacing_of_ne_zero (p : Params) {v : Word} (h : v ≠ 0#32) :
    packetSpacing p v = (p.spacingNum / v.toNat) * p.spacingMult := if_neg h

/-- A bitrate above SPACING_NUM has no spacing (R110). -/
theorem packetSpacing_of_spacingNum_lt {p : Params} {v : Word} (h : p.spacingNum < v.toNat) : packetSpacing p v = 0 := by
  have hv : v ≠ 0#32 := by
    rintro rfl
    simp at h
  rw [packetSpacing_of_ne_zero p hv, Nat.div_eq_of_lt h, Nat.zero_mul]

/-- Without a spacing the line is silent and the gate open at once (R112, R140). -/
theorem State.silent_and_open_of_pspace_zero {s : State} (h : s.pspace = 0) :
    s.rxSilent = true ∧ s.txGateOpen = true := by
  simp [State.rxSilent, State.txGateOpen, h]

/-- Settles O22 (the plain name is the model's function): the formula of the spacing, and its value 0 above SPACING_NUM. -/
theorem packetSpacing_spec : Obligations.PacketSpacing :=
  ⟨fun s h => packetSpacing_of_ne_zero s.cfg h, fun _ h => packetSpacing_of_ne_zero defaults h,
    fun _ h => ⟨packetSpacing_of_spacingNum_lt h,
      State.silent_and_open_of_pspace_zero (packetSpacing_of_spacingNum_lt h)⟩⟩

/-! ## FRAME_ACK -/

/-- With no frame latched every FRAME_DATA word is 0 (R30, R121). -/
theorem Block.frameWord_of_noFrame {b : Block} (h : b.frameLen = 0) (i : Nat) : b.frameWord i = 0#32 := by
  simp [Block.frameWord, Block.frameByte, h, wordOfBytes]

/-- FRAME_DATA[i] shows the frame word (R30). -/
theorem perform_rdMove_frameData {s : State} {i : Nat} (hlegal : s.cfg.legal = true) (hi : i < s.cfg.foutWords) :
    perform (rdMove s.cfg (0x100 + 4 * i)) s = .next { s with readData := s.block.frameWord i } := by
  have hend := frameWords_in_window hlegal
  rw [perform_rdMove s (by omega) (by omega), regAt_frameData hi]
  rfl

/-- FRAME_ACK writes what an acknowledged block already holds (R121). -/
theorem effectOf_frameAck_of_noFrame {s : State} (hv : s.block.frameValid = false) (hl : s.block.frameLen = 0) :
    effectOf .frameAck s = s := by
  rw [effectOf, State.onBlock, ← hv, ← hl]

/-- Settles O32: the effect of FRAME_ACK on an idle block, the empty frame window after it, and its rejection. -/
theorem frameAckEffect : Obligations.FrameAckEffect := by
  refine ⟨rfl, fun s => ⟨fun hi => ?idle, fun hb => exec_of_busy hb nofun⟩⟩
  case idle =>
    have he : exec .frameAck s = .next (effectOf .frameAck s) := exec_of_idle hi nofun nofun
    refine ⟨he, fun hinv hv => ?nothing, fun hlegal i hin => ?window⟩
    case nothing => rw [he, effectOf_frameAck_of_noFrame hv (hinv.frameNone hv)]
    case window =>
      rw [← Block.frameWord_of_noFrame (b := (effectOf .frameAck s).block) rfl i]
      exact perform_rdMove_frameData (s := effectOf .frameAck s) hlegal hin

end Sys2Proof.Machine
end

section
/-! Transmit framer family (42_tx_framer.md). The effects of TX_CLEAR, TX_PUSH and TX_SEND on an idle block, and what an
enabled TX_FIRE does by how much of the frame the transport took. -/

namespace Sys2Proof.Machine

/-! ## The payload -/

/-- TX_LEN shows the payload's length (R31). -/
theorem perform_rdMove_txLen (s : State) :
    perform (rdMove s.cfg 0x024) s = .next { s with readData := BitVec.ofNat 32 s.block.txLen } :=
  perform_rdMove s (by decide) rfl

/-- Settles O33: the effect of TX_CLEAR on an idle block, its read-back, and its rejection. -/
theorem txClearEffect : Obligations.TxClearEffect :=
  ⟨rfl, fun s => ⟨fun hi => ⟨exec_of_idle hi nofun nofun, perform_rdMove_txLen (effectOf .txClear s)⟩,
    fun hb => exec_of_busy hb nofun⟩⟩

theorem Block.pushTx_of_room {cap : Nat} {b : Block} (h : b.txLen < cap) (x : Byte) :
    b.pushTx cap x = { b with txb := b.txb.set b.txLen x, txLen := b.txLen + 1 } := if_pos h

theorem Block.pushTx_of_full {cap : Nat} {b : Block} (h : cap ≤ b.txLen) (x : Byte) :
    b.pushTx cap x = b.raise .txOvf := if_neg (Nat.not_lt.mpr h)

/-- On an idle block TX_PUSH pushes its byte to TXB (R143). -/
theorem exec_txPush_of_idle {s : State} (hi : s.block.txWait = false) (x : Byte) :
    exec (.txPush x) s = .next { s with block := s.block.pushTx s.cfg.txCap x } :=
  exec_of_idle hi nofun nofun

/-- Settles O34: TX_PUSH on an idle block by whether TXB has room, and its rejection. -/
theorem txPushEffect : Obligations.TxPushEffect := by
  refine ⟨fun _ => rfl, fun s x => ⟨fun hi hroom => ?room, fun hi hfull => ?full, fun hb => exec_of_busy hb nofun⟩⟩
  case room => rw [exec_txPush_of_idle hi, Block.pushTx_of_room hroom]
  case full =>
    rw [exec_txPush_of_idle hi, Block.pushTx_of_full hfull]
    rfl

/-! ## TX_SEND -/

/-- STATUS bit 0 is BUSY (R24). -/
theorem Block.status_getLsbD_zero (b : Block) : b.status.getLsbD 0 = b.txWait := by
  simp only [Block.status, BitVec.getLsbD_append, BitVec.getLsbD_ofBool]
  simp

/-- With the block idle and a bitrate set, TX_SEND is accepted (R146, R163). -/
theorem exec_txSend_of_ready {s : State} (hi : s.block.txWait = false) (hb : s.block.bitrate ≠ 0#32) :
    exec .txSend s = .next { s with block := { s.block with txWait := true } } :=
  exec_of_not_rejects (by simp [rejects, hi, hb])

/-- Settles O36: TX_SEND only sets the pending send, so that what then enables TX_FIRE is the gate, which does not read
`st.tx_wait`. -/
theorem txSendEffect : Obligations.TxSendEffect := by
  refine ⟨rfl, fun s => ⟨fun hi hb => ⟨exec_txSend_of_ready hi hb, ?busyBit, ?enabled⟩, fun h => ?rejected⟩⟩
  case busyBit => exact Block.status_getLsbD_zero _
  case enabled => exact Bool.true_and s.txGateOpen
  case rejected =>
    rw [← State.reject_eq]
    exact exec_of_rejects (h.imp (fun hw => ⟨hw, nofun⟩) (fun hz => ⟨.inr rfl, hz⟩))

/-! ## TX_FIRE -/

/-- The frame on the wire is two CRC bytes longer than its payload (R55, R141). -/
theorem length_wireFrame (p : List Byte) : (wireFrame p).length = p.length + 2 := by
  simp [wireFrame]

/-- The block after a write that took bytes (R147, R148). -/
theorem Block.sendDone_of_taken {k : Nat} (hk : 1 ≤ k) (len now : Nat) (b : Block) :
    b.sendDone k len now = { b with
      sticky := b.sticky ||| (if k = len then 0x01#8 else 0x02#8)
      tLastAct := now
      actValid := true
      txLen := 0
      txWait := false } := by
  rw [Block.sendDone, if_pos hk]
  split <;> rfl

/-- The block after a write that took no byte of a frame (R148). -/
theorem Block.sendDone_of_none {len : Nat} (hl : len ≠ 0) (now : Nat) (b : Block) :
    b.sendDone 0 len now = { b with sticky := b.sticky ||| 0x02#8, txLen := 0, txWait := false } := by
  rw [Block.sendDone, if_neg hl.symm, if_neg (by decide)]
  rfl

/-- TX_FIRE where the transport takes `k ≥ 1` bytes: they are on the line, and the activity is real (R147, R148). -/
theorem State.txFire_of_taken {s s' : State} {k : Nat} (hk : 1 ≤ k)
    (h : s.transportWrite (wireFrame s.block.payload).length = (k, s')) :
    s.txFire = { s' with
      line := s.line ++ [{ time := s.clock, bytes := (wireFrame s.block.payload).take k }]
      block := { s.block with
        sticky := s.block.sticky ||| (if k = (wireFrame s.block.payload).length then 0x01#8 else 0x02#8)
        tLastAct := s.now
        actValid := true
        txLen := 0
        txWait := false } } := by
  obtain ⟨j, tr, n, -, hdraw, hfire⟩ := s.txFire_eq
  obtain ⟨rfl, rfl⟩ := Prod.mk.inj (hdraw.symm.trans h)
  rw [hfire, State.putOnLine, if_pos hk, State.onBlock, Block.sendDone_of_taken hk]

/-- TX_FIRE where the transport takes nothing: the line and the activity time stay (R148). -/
theorem State.txFire_of_none {s s' : State} (h : s.transportWrite (wireFrame s.block.payload).length = (0, s')) :
    s.txFire = { s' with block := { s.block with sticky := s.block.sticky ||| 0x02#8, txLen := 0, txWait := false } } := by
  have hl : (wireFrame s.block.payload).length ≠ 0 := by simp [length_wireFrame]
  obtain ⟨j, tr, n, -, hdraw, hfire⟩ := s.txFire_eq
  obtain ⟨rfl, rfl⟩ := Prod.mk.inj (hdraw.symm.trans h)
  rw [hfire, State.putOnLine, if_neg (by decide), State.onBlock, Block.sendDone_of_none hl]

/-- TX_FIRE keeps the bitrate (R147). -/
theorem State.txFire_bitrate (s : State) : s.txFire.block.bitrate = s.block.bitrate := by
  obtain ⟨k, tr, n, -, hdraw, -⟩ := s.txFire_eq
  obtain rfl | hk := k.eq_zero_or_pos
  · rw [State.txFire_of_none hdraw]
  · rw [State.txFire_of_taken hk hdraw]

/-- Settles O38: TX_FIRE by whether the transport took any byte, and the TX_SEND accepted after it. -/
theorem txFireEffect : Obligations.TxFireEffect := by
  rintro s s' w k hwait hgate hw hdraw
  obtain rfl : w = wireFrame s.block.payload := hw
  have hfire : perform .fire s = .next s.txFire :=
    congrArg Host.Outcome.next (State.sequencerTurn_enabled (by simp [State.txFireEnabled, hwait, hgate]))
  refine ⟨?bound, fun hinv => ?length, fun hk => ?taken, ?none, fun hb t ht => ?later⟩
  case bound =>
    have hle := (s.transportWrite_spec (wireFrame s.block.payload).length).1
    rwa [hdraw] at hle
  case length => rw [length_wireFrame, s.block.payload_length s.cfg hinv.buffersWf]
  case taken => rw [hfire, State.txFire_of_taken hk hdraw]
  case none =>
    rintro rfl
    rw [hfire, State.txFire_of_none hdraw]
  case later =>
    obtain rfl : s.txFire = t := Host.Outcome.next.inj (hfire.symm.trans ht)
    exact exec_txSend_of_ready s.txFire_txWait (s.txFire_bitrate ▸ hb)

end Sys2Proof.Machine
end

section
/-! Control family (43_control.md). Which word is NOP, the rejection of a command written at the wrong time, and that only
RX_POLL and TX_SEND look at the bitrate. -/

namespace Sys2Proof

/-! ## The word of a command -/

/-- A word is made of its fields and nothing else (R70). -/
theorem wordOf_fieldsOf (v : Word) : wordOf (fieldsOf v) = v := by
  simp only [wordOf, fieldsOf]
  rw [BitVec.extractLsb'_append_extractLsb'_eq_extractLsb' (by decide),
    BitVec.extractLsb'_append_extractLsb'_eq_extractLsb' (by decide)]
  exact BitVec.extractLsb'_eq_self

/-- A format-N command is decoded only without an operand (R75). -/
theorem noOperand_eq_ok_iff (imm8 : Byte) (i j : Instr) : noOperand imm8 i = .ok j ↔ imm8 = 0#8 ∧ i = j := by
  unfold noOperand
  split <;> simp [*]

/-- A decoded command keeps every field of its word: the reserved bits are 0, and so is the operand of a
format-N code (R75). -/
theorem fields_eq_of_decodeFields {f : CmdFields} {i : Instr} (h : decodeFields f = .ok i) : i.fields = f := by
  obtain ⟨rsv, imm8, op⟩ := f
  have hr : rsv = 0#16 := by
    by_contra hr
    cases (decodeFields_of_rsv hr).symm.trans h
  subst hr
  cases hf : opFormat op with
  | none => cases (decodeFields_of_reserved rfl hf).symm.trans h
  | some fmt =>
    cases fmt with
    | n =>
      simp only [opFormat_eq_n_iff, List.mem_cons, List.not_mem_nil, or_false] at hf
      rcases hf with rfl | rfl | rfl | rfl | rfl | rfl | rfl <;>
      · obtain ⟨rfl, rfl⟩ := (noOperand_eq_ok_iff ..).mp h
        rfl
    | b =>
      simp only [opFormat_eq_b_iff, List.mem_cons, List.not_mem_nil, or_false] at hf
      rcases hf with rfl | rfl | rfl <;>
      · obtain rfl := Except.ok.inj h
        rfl

/-- Only the word 0 is NOP (R160). -/
theorem decode_eq_nop_iff (v : Word) : decode v = .ok .nop ↔ v = 0x00000000#32 := by
  refine ⟨fun h => ?zero, ?nop⟩
  case zero =>
    calc v = wordOf (fieldsOf v) := (wordOf_fieldsOf v).symm
      _ = encode .nop := congrArg wordOf (fields_eq_of_decodeFields h).symm
      _ = 0x00000000#32 := by decide
  case nop =>
    rintro rfl
    rfl

end Sys2Proof

namespace Sys2Proof.Machine

/-! ## The issue of a word -/

theorem perform_cmdWrite_of_decode {v : Word} {i : Instr} (h : decode v = .ok i) (s : State) :
    perform (cmdWrite s.cfg v) s = exec i s := by
  rw [perform_cmdWrite, issue, h]

theorem perform_cmdWrite_of_decode_error {v : Word} {e : DecodeError} (h : decode v = .error e) (s : State) :
    perform (cmdWrite s.cfg v) s = .next s.reject := by
  rw [perform_cmdWrite, issue_of_decode_error h]

/-- Settles O9: NOP's effect is none, and 0x100 is its code with an operand, which is illegal. -/
theorem nopChangesNothing : Obligations.NopChangesNothing :=
  ⟨fun s => ⟨rfl, perform_cmdWrite_of_decode (i := .nop) rfl s,
    perform_cmdWrite_of_decode_error (e := .operandInFormatN) rfl s⟩, decode_eq_nop_iff⟩

/-- Settles O7: an illegal word is rejected at issue, a command on a busy block by its own check. -/
theorem illTimedCommandsRejected : Obligations.IllTimedCommandsRejected := by
  intro s v h
  rw [← State.reject_eq]
  cases hv : decode v with
  | error e => exact perform_cmdWrite_of_decode_error hv s
  | ok i =>
    obtain ⟨e, he⟩ | ⟨hb, hn⟩ := h
    · cases hv.symm.trans he
    · rw [perform_cmdWrite_of_decode hv]
      exact exec_of_rejects (.inl ⟨hb, fun hi => hn (hi ▸ hv)⟩)

/-! ## The bitrate and the commands that look at it -/

/-- The block with another bitrate. -/
def Block.withBitrate (v : Word) (b : Block) : Block := { b with bitrate := v }

/-- The state with another bitrate. -/
def State.withBitrate (v : Word) (s : State) : State := s.onBlock (Block.withBitrate v)

/-- The checks of a command that needs no spacing are R162's alone. -/
theorem rejects_iff_busy {i : Instr} (hp : i ≠ .rxPoll) (hs : i ≠ .txSend) (s : State) :
    rejects i s ↔ s.block.txWait = true ∧ i ≠ .nop := by
  simp [rejects, hp, hs]

theorem Block.pushTx_withBitrate (cap : Nat) (x : Byte) (v : Word) (b : Block) :
    (b.withBitrate v).pushTx cap x = (b.pushTx cap x).withBitrate v := by
  rw [Block.pushTx, Block.pushTx, apply_ite (Block.withBitrate v)]
  rfl

/-- The effect of every command but RX_POLL commutes with a change of bitrate: a send's spacing is looked at by TX_FIRE, not by
TX_SEND (R146). -/
theorem effectOf_withBitrate {i : Instr} (hp : i ≠ .rxPoll) (v : Word) (s : State) :
    effectOf i (s.withBitrate v) = (effectOf i s).withBitrate v := by
  cases i with
  | rxPoll => exact absurd rfl hp
  | txPush x => exact congrArg (fun b => { s with block := b }) (s.block.pushTx_withBitrate s.cfg.txCap x v)
  | _ => rfl

/-- A command that needs no spacing answers a next state, the same but for the bitrate whatever the bitrate is (R163). -/
theorem exec_withBitrate {i : Instr} (hp : i ≠ .rxPoll) (hs : i ≠ .txSend) (v : Word) (s : State) :
    ∃ t, exec i s = .next t ∧ exec i (s.withBitrate v) = .next (t.withBitrate v) := by
  have hiff : rejects i (s.withBitrate v) ↔ rejects i s :=
    (rejects_iff_busy hp hs _).trans (rejects_iff_busy hp hs s).symm
  by_cases hr : rejects i s
  · exact ⟨s.reject, exec_of_rejects hr, exec_of_rejects (hiff.mpr hr)⟩
  · refine ⟨effectOf i s, exec_of_not_rejects hr, ?_⟩
    rw [exec_of_not_rejects (mt hiff.mp hr), effectOf_withBitrate hp]

/-- Settles O8: the two commands that need the spacing are rejected, and every other one commutes with a change of bitrate. -/
theorem zeroBitrateRejected : Obligations.ZeroBitrateRejected := by
  refine ⟨fun s hz => ⟨exec_of_rejects (.inr ⟨.inl rfl, hz⟩), exec_of_rejects (.inr ⟨.inr rfl, hz⟩), ?cfgErr⟩,
    fun s i v hp hs => exec_withBitrate hp hs v s⟩
  case cfgErr => exact s.block.status_getLsbD_three.trans (beq_iff_eq.mpr hz)

end Sys2Proof.Machine
end

section
/-! Reset family (70_reset_and_hazards.md). The activity time right after reset, and what the host reads at each offset
right after reset with the defaults. -/

namespace Sys2Proof.Machine

open Sys2Proof.Config

/-! ## The state right after reset -/

/-- RESET_GATE armed counts reset as activity at the Clock's value then (R190). -/
theorem Block.afterReset_tLastAct (p : Params) (now : Nat) :
    (Block.afterReset p now).tLastAct = if p.resetGate = .armed then now else 0 := by
  cases h : p.resetGate <;> simp [Block.afterReset, h]

theorem Block.afterReset_actValid (p : Params) (now : Nat) :
    (Block.afterReset p now).actValid = decide (p.resetGate = .armed) := by
  cases h : p.resetGate <;> simp [Block.afterReset, h]

/-! ## The registers right after reset -/

/-- STATUS, CRC_VALUE and CAPS each stand at one offset (R22). -/
theorem regAt_ne_status_crcValue_caps (p : Params) {off : Nat} (hs : off ≠ 0x004) (hc : off ≠ 0x008)
    (hp : off ≠ 0x028) : regAt p off ≠ .status ∧ regAt p off ≠ .crcValue ∧ regAt p off ≠ .caps := by
  simp only [regAt, if_neg hs, if_neg hc, if_neg hp]
  split_ifs <;> exact ⟨nofun, nofun, nofun⟩

/-- With the defaults every register but STATUS, CRC_VALUE and CAPS reads 0 at reset (R190): no bitrate gives no spacing, and no
frame is latched. -/
theorem State.reset_regValue_eq_zero {r : Reg} (hs : r ≠ .status) (hc : r ≠ .crcValue) (hp : r ≠ .caps) :
    State.reset.regValue r = 0x00000000#32 := by
  cases r with
  | status => exact absurd rfl hs
  | crcValue => exact absurd rfl hc
  | caps => exact absurd rfl hp
  | frameData i => exact Block.frameWord_of_noFrame rfl i
  | _ => rfl

/-- The value at each offset of the window, right after reset with the defaults (R190). -/
theorem State.reset_regValue_regAt (off : Nat) :
    State.reset.regValue (regAt State.reset.cfg off) =
      if off = 0x004 then 0x00000008#32 else if off = 0x008 then 0x0000FFFF#32
      else if off = 0x028 then 0x00FE0100#32 else 0x00000000#32 := by
  split_ifs with hs hc hp
  · subst hs; decide
  · subst hc; decide
  · subst hp; decide
  · obtain ⟨ns, nc, np⟩ := regAt_ne_status_crcValue_caps State.reset.cfg hs hc hp
    exact State.reset_regValue_eq_zero ns nc np

/-- Settles O59: the reset input answers the block after reset, and the reads go through the register map. -/
theorem resetSetsEveryElement : Obligations.ResetSetsEveryElement := by
  refine ⟨fun s => ⟨s.resetBlock, rfl, ?elements⟩, fun off hl ha => ?registers⟩
  case elements =>
    rw [← Block.afterReset_tLastAct, ← Block.afterReset_actValid s.cfg s.now]
    rfl
  case registers => rw [perform_rdMove _ hl ha, readReg, State.reset_regValue_regAt]

end Sys2Proof.Machine
end

section
/-! Encoding laws. Decoding and encoding are inverse to each other, and the count of the legal words (30_encoding.md). -/

namespace Sys2Proof

/-- The decoder reads a command back from its fields (R72 to R75). -/
theorem decodeFields_fields (i : Instr) : decodeFields i.fields = .ok i := by
  cases i <;> rfl

theorem decode_encode (i : Instr) : decode (encode i) = .ok i := by
  rw [decode, encode, Laws.fieldsOf_wordOf, decodeFields_fields]

/-- Settles O1: a word carries its fields, and the decoder reads the command back from them. -/
theorem decodeOfEncode : Obligations.DecodeOfEncode := fun i _ => decode_encode i

theorem encode_of_decode {v : Word} {i : Instr} (h : decode v = .ok i) : encode i = v := by
  rw [encode, fields_eq_of_decodeFields h, wordOf_fieldsOf]

/-- Settles O2: a decoded command keeps every field, and a word is made of its fields alone. -/
theorem encodeOfDecode : Obligations.EncodeOfDecode := fun _ _ => encode_of_decode

theorem encode_injective : Function.Injective encode := by
  intro i j h
  have hd : decode (encode i) = decode (encode j) := congrArg decode h
  rw [decode_encode, decode_encode] at hd
  exact Except.ok.inj hd

/-- The words that decode are the encodings of the commands. -/
theorem setOf_decodes_eq_range : { v : Word | ∃ i, decode v = .ok i } = Set.range encode := by
  ext v
  constructor
  · rintro ⟨i, hi⟩
    exact ⟨i, encode_of_decode hi⟩
  · rintro ⟨i, rfl⟩
    exact ⟨i, decode_encode i⟩

/-- The commands by format: seven of format N, and three of format B with an operand byte (R71, R73). -/
def Instr.equivFormats : Instr ≃ Fin 7 ⊕ Fin 3 × Byte where
  toFun
    | .nop       => .inl 0
    | .crcInit   => .inl 1
    | .lrcInit   => .inl 2
    | .rxPoll    => .inl 3
    | .frameAck  => .inl 4
    | .txClear   => .inl 5
    | .txSend    => .inl 6
    | .crcByte x => .inr (0, x)
    | .lrcByte x => .inr (1, x)
    | .txPush x  => .inr (2, x)
  invFun
    | .inl 0      => .nop
    | .inl 1      => .crcInit
    | .inl 2      => .lrcInit
    | .inl 3      => .rxPoll
    | .inl 4      => .frameAck
    | .inl 5      => .txClear
    | .inl 6      => .txSend
    | .inr (0, x) => .crcByte x
    | .inr (1, x) => .lrcByte x
    | .inr (2, x) => .txPush x
  left_inv i := by cases i <;> rfl
  right_inv
    | .inl n      => by fin_cases n <;> rfl
    | .inr (n, x) => by fin_cases n <;> rfl

theorem card_byte : Nat.card Byte = 256 := by
  rw [Nat.card_congr (BitVec.equivFin (m := 8)).toEquiv, Nat.card_fin]
  rfl

theorem card_instr : Nat.card Instr = 775 := by
  rw [Nat.card_congr Instr.equivFormats, Nat.card_sum, Nat.card_prod, card_byte, Nat.card_fin, Nat.card_fin]

/-- Settles O4: the legal words are as many as the commands, 7 + 3 · 256. -/
theorem decodableWordCount : Obligations.DecodableWordCount := by
  rw [Obligations.DecodableWordCount, setOf_decodes_eq_range, ← Set.image_univ,
    Set.ncard_image_of_injective _ encode_injective, Set.ncard_univ, card_instr]

/-- Settles O5: both functions computed on the words written out. -/
theorem commandWordsDecode : Obligations.CommandWordsDecode :=
  ⟨rfl, rfl, rfl, rfl, rfl, rfl, rfl, rfl, rfl, rfl, rfl, rfl, rfl, rfl, rfl, rfl⟩

end Sys2Proof
end

section
/-! Steps and moves. A step is the command the schedule places, every legal move answers, what a Clock step does, and the
accesses outside the window. -/

namespace Sys2Proof.Machine

/-- A scheduled write to CMD of a word that decodes is its command, made once the move is taken (R161; log 1). -/
theorem step_of_scheduled_command {s : State} {v : Word} {i : Instr} {rest : List Move}
    (hs : s.script = cmdWrite s.cfg v :: rest) (hv : decode v = .ok i) :
    step s = exec i { s with script := rest } := by
  rw [step_eq, State.nextMove, State.taken, hs]
  exact perform_cmdWrite_of_decode hv { s with script := rest }

theorem decode_of_decodeTableWord {nbits w : Nat} {i : Instr} (h : decodeTableWord nbits w = some i) :
    decode ((BitVec.ofNat nbits w).setWidth 32) = .ok i := by
  unfold decodeTableWord at h
  split at h
  case isFalse => cases h
  case isTrue =>
    split at h
    case h_1 j hj =>
      obtain rfl := Option.some.inj h
      exact hj
    case h_2 => cases h

/-- Settles O6: the placed move is the first of the schedule, and taking it gives back the state it was placed in. -/
theorem stepRunsTheCommand : Obligations.StepRunsTheCommand :=
  ⟨fun _ _ _ _ hs hv => step_of_scheduled_command hs hv,
    fun s nbits w _ h => step_of_scheduled_command (s := s.withFetchWord nbits w) rfl (decode_of_decodeTableWord h)⟩

/-- Every command answers, accepted or rejected (R170). -/
theorem exec_answers (i : Instr) (s : State) : ∃ t, exec i s = .next t := by
  obtain ⟨-, h⟩ | ⟨-, h⟩ := exec_cases i s <;> exact ⟨_, h⟩

theorem issue_answers (v : Word) (s : State) : ∃ t, issue v s = .next t := by
  cases hv : decode v with
  | error e => exact ⟨_, issue_of_decode_error hv s⟩
  | ok i => simpa only [issue, hv] using exec_answers i s

theorem writeReg_answers (r : Reg) (v : Word) (s : State) : ∃ t, writeReg r v s = .next t := by
  cases r with
  | cmd => exact issue_answers v s
  | _ => exact ⟨_, rfl⟩

theorem perform_clock {s : State} {n : Nat} (h : s.clock ≤ n) : perform (.clock n) s = .next { s with clock := n } :=
  if_neg (Nat.not_lt.mpr h)

/-- Settles O10: a write reaches a register or a command, both of which answer, and the other moves have one outcome. -/
theorem blockNeverStops : Obligations.BlockNeverStops := by
  refine ⟨fun s v => ?command, fun s off v hl ha => ⟨⟨_, perform_rdMove s hl ha⟩, ?write⟩,
    fun s n hn => ⟨_, perform_clock hn⟩, fun s => ⟨⟨_, rfl⟩, _, rfl⟩⟩
  case command =>
    rw [perform_cmdWrite]
    exact issue_answers v s
  case write =>
    rw [perform_wrMove s v hl ha]
    exact writeReg_answers _ v s

/-- Settles O25: the two branches of a Clock step. -/
theorem clockIsMonotonic : Obligations.ClockIsMonotonic := fun _ _ => ⟨perform_clock, fun h => if_pos h⟩

/-- Settles O51: a read and a write both meet the window check of a host access first. -/
theorem outsideWindowFaults : Obligations.OutsideWindowFaults := fun _ _ _ _ h => ⟨if_pos h, if_pos h⟩

end Sys2Proof.Machine
end

section
/-! Registers read back. The value at every offset of the window, and the bits of STATUS (10_state.md). -/

namespace Sys2Proof.Machine

/-- Settles O45: the register map carries each offset to its register, and each register reads as its rule says. -/
theorem registerReads : Obligations.RegisterReads := by
  intro s off hl ha
  rw [perform_rdMove s hl ha, readReg, regAt, ← setWidth_lrcOfSum]
  simp only [apply_ite s.regValue]
  rfl

/-- The bits of STATUS (R24). -/
theorem Block.status_getLsbD (b : Block) {k : Nat} (hk : k < 32) :
    b.status.getLsbD k =
      if k = 0 then b.txWait
      else if k = 1 then b.frameValid
      else if k = 2 then decide (b.pendLen ≠ 0)
      else if k = 3 then decide (b.bitrate = 0#32)
      else if 8 ≤ k ∧ k ≤ 15 then b.sticky.getLsbD (k - 8)
      else false := by
  have hp : b.rxPending = decide (b.pendLen ≠ 0) := by simp [Block.rxPending, bne, beq_eq_decide]
  have hc : b.cfgErr = decide (b.bitrate = 0#32) := by simp [Block.cfgErr, beq_eq_decide]
  simp only [Block.status, BitVec.getLsbD_append, BitVec.getLsbD_ofBool, hp, hc]
  interval_cases k <;> simp

/-- Settles O46: the bits of the value read, and the write to STATUS. -/
theorem statusRegister : Obligations.StatusRegister :=
  ⟨fun s _ hk => s.block.status_getLsbD hk, fun s v => perform_wrMove s v (by decide) rfl⟩

end Sys2Proof.Machine
end

section
/-! What moves leave alone, said once: the elements of the block a poll, a push and TX_FIRE can write, the fields of the state a
move can change, and the induction over a list of moves. -/

namespace Sys2Proof.Machine

/-! ## The block -/

/-- A received byte writes PEND and the sticky flags only (R114). -/
theorem Block.pushPend_frame (cap : Nat) (b : Block) (x : Byte) :
    b.pushPend cap x = { b with
      pend := (b.pushPend cap x).pend
      pendLen := (b.pushPend cap x).pendLen
      pendOvf := (b.pushPend cap x).pendOvf
      sticky := (b.pushPend cap x).sticky } := by
  unfold Block.pushPend
  split <;> rfl

theorem Block.foldl_pushPend_frame (cap : Nat) (new : List Byte) (b : Block) :
    new.foldl (Block.pushPend cap) b = { b with
      pend := (new.foldl (Block.pushPend cap) b).pend
      pendLen := (new.foldl (Block.pushPend cap) b).pendLen
      pendOvf := (new.foldl (Block.pushPend cap) b).pendOvf
      sticky := (new.foldl (Block.pushPend cap) b).sticky } := by
  induction new generalizing b with
  | nil => rfl
  | cons x xs ih =>
    rw [List.foldl_cons, ih (b.pushPend cap x), Block.pushPend_frame]

/-- A poll that got bytes writes PEND, the timestamps, the sticky flags and RX_RESULT only (R114). -/
theorem Block.accumulate_frame (cap now : Nat) (new : List Byte) (b : Block) :
    b.accumulate cap now new = { b with
      pend := (b.accumulate cap now new).pend
      pendLen := (b.accumulate cap now new).pendLen
      pendOvf := (b.accumulate cap now new).pendOvf
      sticky := (b.accumulate cap now new).sticky
      tLastRx := now
      tLastAct := now
      actValid := true
      rxResult := rxResultWord new.length .appended } := by
  unfold Block.accumulate
  rw [Block.foldl_pushPend_frame]
  rfl

/-- A pushed byte writes TXB and the sticky flags only (R143). -/
theorem Block.pushTx_frame (cap : Nat) (x : Byte) (b : Block) :
    b.pushTx cap x = { b with
      txb := (b.pushTx cap x).txb
      txLen := (b.pushTx cap x).txLen
      sticky := (b.pushTx cap x).sticky } := by
  unfold Block.pushTx
  split <;> rfl

/-- The elements of the block that no poll writes. -/
structure Block.SameOutsideReceive (b b' : Block) : Prop where
  crcAcc  : b'.crcAcc = b.crcAcc
  lrcSum  : b'.lrcSum = b.lrcSum
  txb     : b'.txb = b.txb
  txLen   : b'.txLen = b.txLen
  bitrate : b'.bitrate = b.bitrate
  txWait  : b'.txWait = b.txWait

/-- A poll that got no bytes writes neither timestamp (R115). -/
theorem State.poll_noBytes_frame {s : State} (h : s.transportRead.1 = []) :
    s.poll.block = { s.block with
      pendLen := s.poll.block.pendLen
      pendOvf := s.poll.block.pendOvf
      fout := s.poll.block.fout
      frameLen := s.poll.block.frameLen
      frameValid := s.poll.block.frameValid
      sticky := s.poll.block.sticky
      rxResult := s.poll.block.rxResult } := by
  rw [State.poll_of_noBytes h]
  split_ifs
  · rfl
  · rfl
  · dsimp only
    rw [Block.judge_frame]
    rfl

theorem State.poll_sameOutsideReceive (s : State) : s.block.SameOutsideReceive s.poll.block := by
  by_cases h : s.transportRead.1 = []
  · rw [State.poll_noBytes_frame h]
    constructor <;> rfl
  · rw [State.poll_of_bytes h]
    dsimp only
    rw [Block.accumulate_frame]
    constructor <;> rfl

/-! ## The state -/

/-- A poll changes the block and draws from the transport. -/
theorem State.poll_eq (s : State) : ∃ tr n, s.poll = { s with transport := tr, draws := n, block := s.poll.block } := by
  obtain ⟨-, tr, n, he⟩ := s.transportRead_spec
  refine ⟨tr, n, ?_⟩
  by_cases h : s.transportRead.1 = []
  · rw [State.poll_of_noBytes h, he]
  · rw [State.poll_of_bytes h, he]

/-- A command changes the block, and draws from the transport where it polls. -/
theorem effectOf_eq (i : Instr) (s : State) :
    ∃ tr n, effectOf i s = { s with transport := tr, draws := n, block := (effectOf i s).block } := by
  cases i with
  | rxPoll => exact s.poll_eq
  | _ => exact ⟨s.transport, s.draws, rfl⟩

/-- TX_FIRE puts bytes on the line and notes the activity, or does neither; the send ends either way (R147, R148). -/
theorem State.txFire_cases (s : State) :
    ∃ tr n, ∃ f ∈ [0x01#8, 0x02#8],
      (∃ bytes, s.txFire = { s with
        transport := tr
        draws := n
        line := s.line ++ [{ time := s.clock, bytes := bytes }]
        block := { s.block with
          sticky := s.block.sticky ||| f, tLastAct := s.now, actValid := true, txLen := 0, txWait := false } }) ∨
      s.txFire = { s with
        transport := tr
        draws := n
        block := { s.block with sticky := s.block.sticky ||| f, txLen := 0, txWait := false } } := by
  obtain ⟨k, tr, n, -, hdraw, -⟩ := s.txFire_eq
  refine ⟨tr, n, ?_⟩
  obtain rfl | hk := k.eq_zero_or_pos
  · exact ⟨0x02#8, by simp, .inr (State.txFire_of_none hdraw)⟩
  · refine ⟨if k = (wireFrame s.block.payload).length then 0x01#8 else 0x02#8, ?_,
      .inl ⟨_, State.txFire_of_taken hk hdraw⟩⟩
    split <;> simp

theorem State.sequencerTurn_disabled {s : State} (h : ¬ s.txFireEnabled = true) : s.sequencerTurn = s := if_neg h

/-- The sequencer's turn changes nothing, or is TX_FIRE with or without bytes on the line (R146 to R148). -/
theorem State.sequencerTurn_cases (s : State) :
    s.sequencerTurn = s ∨
    s.txFireEnabled = true ∧ ∃ tr n, ∃ f ∈ [0x01#8, 0x02#8],
      (∃ bytes, s.sequencerTurn = { s with
        transport := tr
        draws := n
        line := s.line ++ [{ time := s.clock, bytes := bytes }]
        block := { s.block with
          sticky := s.block.sticky ||| f, tLastAct := s.now, actValid := true, txLen := 0, txWait := false } }) ∨
      s.sequencerTurn = { s with
        transport := tr
        draws := n
        block := { s.block with sticky := s.block.sticky ||| f, txLen := 0, txWait := false } } := by
  by_cases he : s.txFireEnabled = true
  · rw [State.sequencerTurn_enabled he]
    exact .inr ⟨he, s.txFire_cases⟩
  · exact .inl (State.sequencerTurn_disabled he)

/-- A write to BITRATE is rejected, or sets the bitrate (R32). -/
theorem writeBitrate_cases (v : Word) (s : State) :
    (s.block.txWait = true ∧ writeBitrate v s = s.reject) ∨
      (s.block.txWait = false ∧ writeBitrate v s = { s with block := { s.block with bitrate := v } }) := by
  cases hb : s.block.txWait with
  | true => exact .inl ⟨rfl, writeBitrate_busy v hb⟩
  | false => exact .inr ⟨rfl, writeBitrate_idle v hb⟩

/-- What no move changes or takes back. -/
structure State.Continues (s t : State) : Prop where
  cfg   : t.cfg = s.cfg
  clock : s.clock ≤ t.clock
  line  : s.line <+: t.line

theorem State.Continues.of_eq {s t : State} (hcfg : t.cfg = s.cfg) (hclock : t.clock = s.clock)
    (hline : t.line = s.line) : s.Continues t :=
  ⟨hcfg, hclock.ge, hline ▸ List.prefix_refl _⟩

theorem State.Continues.refl (s : State) : s.Continues s := .of_eq rfl rfl rfl

theorem State.Continues.trans {s t u : State} (h : s.Continues t) (h' : t.Continues u) : s.Continues u :=
  ⟨h'.cfg.trans h.cfg, h.clock.trans h'.clock, h.line.trans h'.line⟩

theorem State.sequencerTurn_continues (s : State) : s.Continues s.sequencerTurn := by
  obtain h | ⟨-, tr, n, f, -, ⟨bytes, h⟩ | h⟩ := s.sequencerTurn_cases <;> rw [h]
  · exact .refl s
  · exact ⟨rfl, Nat.le_refl _, List.prefix_append _ _⟩
  · exact .of_eq rfl rfl rfl

theorem Performed.continues {m : Move} {s t : State} (h : Performed m s t) : s.Continues t := by
  cases h with
  | command i ha =>
    obtain ⟨tr, n, he⟩ := effectOf_eq i s
    rw [he]
    exact .of_eq rfl rfl rfl
  | bitrateWrite v hm hc =>
    obtain ⟨-, h⟩ | ⟨-, h⟩ := writeBitrate_cases v s <;> rw [h] <;> exact .of_eq rfl rfl rfl
  | clock n hm hn => exact ⟨rfl, hn, List.prefix_refl _⟩
  | fire hm => exact s.sequencerTurn_continues
  | rejected | read | statusWrite | ignored | reset => exact .of_eq rfl rfl rfl

theorem perform_continues {m : Move} {s t : State} (h : perform m s = .next t) : s.Continues t :=
  (perform_cases h).continues

/-- Settles O55: taking a move changes none of the three, and no move performed does. -/
theorem stepKeepsParametersAndHistory : Obligations.StepKeepsParametersAndHistory := by
  intro s t h
  obtain ⟨sc, n, ht⟩ := s.taken_spec
  rw [step_eq, ht] at h
  obtain ⟨hcfg, hclock, hline⟩ := perform_continues h
  exact ⟨hcfg, hclock, hline⟩

/-! ## Lists of moves -/

theorem performAll_cons_eq_next {m : Move} {ms : List Move} {s t : State} :
    performAll (m :: ms) s = .next t ↔ ∃ u, perform m s = .next u ∧ performAll ms u = .next t := by
  rw [performAll]
  cases perform m s <;> simp

theorem performAll_append_of_next {ms ns : List Move} {s t : State} (h : performAll ms s = .next t) :
    performAll (ms ++ ns) s = performAll ns t := by
  rw [performAll_append, h]

/-- What each of the moves keeps, the whole list keeps. -/
theorem performAll_induction {P : State → Prop} {ms : List Move} {s t : State}
    (hstep : ∀ m ∈ ms, ∀ u v, P u → perform m u = .next v → P v) (hs : P s) (h : performAll ms s = .next t) : P t := by
  induction ms generalizing s with
  | nil =>
    cases h
    exact hs
  | cons m ms ih =>
    obtain ⟨u, hu, hrest⟩ := performAll_cons_eq_next.mp h
    exact ih (fun m' hm' => hstep m' (List.mem_cons_of_mem m hm')) (hstep m List.mem_cons_self s u hs hu) hrest

theorem performAll_continues {ms : List Move} {s t : State} (h : performAll ms s = .next t) : s.Continues t :=
  performAll_induction (P := s.Continues) (fun _ _ _ _ hu hv => hu.trans (perform_continues hv)) (.refl s) h

/-- Commands that need no bitrate, issued one after the other on an idle block, have their effects in order (R161). -/
theorem performAll_issueMoves {is : List Instr} {s : State} (hi : s.block.txWait = false)
    (hn : ∀ i ∈ is, i ≠ .rxPoll ∧ i ≠ .txSend) :
    performAll (is.map (issueMove s.cfg)) s = .next (is.foldl (fun s i => effectOf i s) s) := by
  induction is generalizing s with
  | nil => rfl
  | cons i is ih =>
    obtain ⟨hp, hs⟩ := hn i List.mem_cons_self
    have hcfg : (effectOf i s).cfg = s.cfg := by
      obtain ⟨tr, n, he⟩ := effectOf_eq i s
      rw [he]
    have hfirst : perform (issueMove s.cfg i) s = .next (effectOf i s) := by
      rw [issueMove, perform_cmdWrite_of_decode (decode_encode i), exec_of_idle hi hp hs]
    have hrest := ih (s := effectOf i s) ((effectOf_txWait hs s).trans hi) fun j hj => hn j (List.mem_cons_of_mem i hj)
    rw [hcfg] at hrest
    exact performAll_cons_eq_next.mpr ⟨_, hfirst, hrest⟩

end Sys2Proof.Machine
end

section
/-! Checksums over lists of bytes. The eight shifts of a byte, the residue of a list followed by its own CRC, the bytes fed to the
accumulators (40_checksum.md), and CRC_BUF and LRC_BUF. -/

namespace Sys2Proof.Machine

/-! ## The CRC of a list -/

theorem crc16_append (l m : List Byte) : crc16 (l ++ m) = m.foldl crcStep (crc16 l) := List.foldl_append

theorem crc16_concat (l : List Byte) (x : Byte) : crc16 (l ++ [x]) = crcStep (crc16 l) x := crc16_append l [x]

/-- Settles O11: the empty list and the check value computed, a further byte by the eight shifts of its step. -/
theorem crc16Function : Obligations.Crc16Function := by
  refine ⟨rfl, fun l x => ?step, by decide +kernel⟩
  case step =>
    rw [crc16_concat]
    rfl

/-- Shifting out zeros alone never meets the polynomial (R90). -/
theorem crcShifts_of_low_zero {n : Nat} {c : Half} (h : ∀ k < n, c.getLsbD k = false) : crcShifts n c = c >>> n := by
  induction n generalizing c with
  | zero => simp [crcShifts]
  | succ n ih =>
    have hbit : ¬ c.getLsbD 0 = true := by
      rw [h 0 n.succ_pos]
      exact Bool.false_ne_true
    have hfirst : crcShift c = c >>> 1 := if_neg hbit
    have hrest : ∀ k < n, (c >>> 1).getLsbD k = false := by
      intro k hk
      rw [BitVec.getLsbD_ushiftRight]
      exact h (1 + k) (by omega)
    rw [crcShifts, hfirst, ih hrest, ← BitVec.shiftRight_add, Nat.add_comm 1 n]

/-- The low byte of a CRC cancels its own low byte, so that its high byte is shifted down (R90). -/
theorem crcStep_crcLo (c : Half) : crcStep c (crcLo c) = (crcHi c).setWidth 16 := by
  rw [crcStep, crcShifts_of_low_zero]
  · ext k hk
    simp [crcLo, crcHi]
    grind
  · intro k hk
    simp [crcLo, hk, show k < 16 by omega]

/-- A byte cancels itself, and nothing is left to shift (R90). -/
theorem crcStep_self (x : Byte) : crcStep (x.setWidth 16) x = 0#16 := by
  rw [crcStep, BitVec.xor_self]
  rfl

/-- Two bytes that are the CRC so far, low byte first, leave 0. -/
theorem crc16_append_own (l : List Byte) : crc16 (l ++ [crcLo (crc16 l), crcHi (crc16 l)]) = 0#16 := by
  rw [crc16_append, List.foldl_cons, List.foldl_cons, List.foldl_nil, crcStep_crcLo, crcStep_self]

/-- Settles O12: the two CRC bytes cancel the accumulator one after the other. -/
theorem crcResidue : Obligations.CrcResidue := by
  refine ⟨fun l => ?residue, crc16_append_own []⟩
  case residue =>
    have h : crc16 (l ++ [(crc16 l).extractLsb' 0 8, (crc16 l).extractLsb' 8 8]) = 0#16 := crc16_append_own l
    exact ⟨h, by rw [h, eq_comm]⟩

/-! ## The bytes fed to an accumulator -/

/-- What a move is to the accumulators: an accepted command, the reset, or a move that leaves both as they are. -/
theorem Performed.command_or_reset_or_keeps {m : Move} {s t : State} (h : Performed m s t) :
    (∃ i, accepted m s = some i ∧ t = effectOf i s) ∨ (m = .reset ∧ t = s.resetBlock) ∨
      (accepted m s = none ∧ m ≠ .reset ∧ t.block.crcAcc = s.block.crcAcc ∧ t.block.lrcSum = s.block.lrcSum) := by
  cases h with
  | command i ha => exact .inl ⟨i, ha, rfl⟩
  | reset hm => exact .inr (.inl ⟨hm, rfl⟩)
  | rejected v hc ha =>
    refine .inr (.inr ⟨ha, ?_, rfl, rfl⟩)
    rintro rfl
    cases hc
  | read a w v hm => subst hm; exact .inr (.inr ⟨rfl, nofun, rfl, rfl⟩)
  | statusWrite v hm hc => exact .inr (.inr ⟨accepted_eq_none hc, hm ▸ nofun, rfl, rfl⟩)
  | bitrateWrite v hm hc =>
    refine .inr (.inr ⟨accepted_eq_none hc, hm ▸ nofun, ?_⟩)
    obtain ⟨-, h⟩ | ⟨-, h⟩ := writeBitrate_cases v s <;> rw [h] <;> exact ⟨rfl, rfl⟩
  | ignored a v hm hc => exact .inr (.inr ⟨accepted_eq_none hc, hm ▸ nofun, rfl, rfl⟩)
  | clock n hm hn => subst hm; exact .inr (.inr ⟨rfl, nofun, rfl, rfl⟩)
  | fire hm =>
    subst hm
    refine .inr (.inr ⟨rfl, nofun, ?_⟩)
    obtain h | ⟨-, tr, n, f, -, ⟨bytes, h⟩ | h⟩ := s.sequencerTurn_cases <;> rw [h] <;> exact ⟨rfl, rfl⟩

/-- The bytes fed to the CRC once a command is accepted (R93). -/
def crcFeed : Instr → List Byte → List Byte
  | .crcInit, _   => []
  | .crcByte x, l => l ++ [x]
  | _, l          => l

/-- The bytes fed to the LRC once a command is accepted (R98). -/
def lrcFeed : Instr → List Byte → List Byte
  | .lrcInit, _   => []
  | .lrcByte x, l => l ++ [x]
  | _, l          => l

/-- Only a host write is accepted as a command. -/
theorem exists_host_of_accepted {m : Move} {s : State} {i : Instr} (h : accepted m s = some i) :
    ∃ a, m = .host a := by
  obtain ⟨v, hm, -⟩ := exists_cmdWrite_of_accepted h
  exact ⟨_, hm⟩

theorem fed_of_accepted {m : Move} {s : State} {i : Instr} (h : accepted m s = some i) (l : List Byte) :
    crcFed m s l = crcFeed i l ∧ lrcFed m s l = lrcFeed i l := by
  obtain ⟨a, rfl⟩ := exists_host_of_accepted h
  simp only [crcFed, lrcFed, h]
  cases i <;> exact ⟨rfl, rfl⟩

theorem fed_of_none {m : Move} {s : State} (h : accepted m s = none) (hm : m ≠ .reset) (l : List Byte) :
    crcFed m s l = l ∧ lrcFed m s l = l := by
  unfold crcFed lrcFed
  rw [h]
  cases m with
  | reset => exact absurd rfl hm
  | _ => exact ⟨rfl, rfl⟩

/-- Of the commands CRC_INIT and CRC_BYTE alone write `st.crc_acc` (R91, R92). -/
theorem effectOf_crcAcc {s : State} {l : List Byte} (h : s.block.crcAcc = crc16 l) (i : Instr) :
    (effectOf i s).block.crcAcc = crc16 (crcFeed i l) := by
  cases i with
  | crcInit => rfl
  | crcByte x => exact (congrArg (crcStep · x) h).trans (crc16_concat l x).symm
  | rxPoll => exact s.poll_sameOutsideReceive.crcAcc.trans h
  | txPush x => rw [effectOf, State.onBlock_block, Block.pushTx_frame]; exact h
  | _ => exact h

theorem lrcSumOf_concat (l : List Byte) (x : Byte) : lrcSumOf (l ++ [x]) = lrcSumOf l + x := List.foldl_append

/-- Of the commands LRC_INIT and LRC_BYTE alone write `st.lrc_sum` (R96, R97). -/
theorem effectOf_lrcSum {s : State} {l : List Byte} (h : s.block.lrcSum = lrcSumOf l) (i : Instr) :
    (effectOf i s).block.lrcSum = lrcSumOf (lrcFeed i l) := by
  cases i with
  | lrcInit => rfl
  | lrcByte x => exact (congrArg (· + x) h).trans (lrcSumOf_concat l x).symm
  | rxPoll => exact s.poll_sameOutsideReceive.lrcSum.trans h
  | txPush x => rw [effectOf, State.onBlock_block, Block.pushTx_frame]; exact h
  | _ => exact h

theorem perform_crcAcc {m : Move} {s t : State} {l : List Byte} (h : s.block.crcAcc = crc16 l)
    (ht : perform m s = .next t) : t.block.crcAcc = crc16 (crcFed m s l) := by
  obtain ⟨i, ha, rfl⟩ | ⟨rfl, rfl⟩ | ⟨ha, hm, hkeep, -⟩ := (perform_cases ht).command_or_reset_or_keeps
  · rw [(fed_of_accepted ha l).1]
    exact effectOf_crcAcc h i
  · rfl
  · rw [(fed_of_none ha hm l).1, hkeep, h]

theorem perform_lrcSum {m : Move} {s t : State} {l : List Byte} (h : s.block.lrcSum = lrcSumOf l)
    (ht : perform m s = .next t) : t.block.lrcSum = lrcSumOf (lrcFed m s l) := by
  obtain ⟨i, ha, rfl⟩ | ⟨rfl, rfl⟩ | ⟨ha, hm, -, hkeep⟩ := (perform_cases ht).command_or_reset_or_keeps
  · rw [(fed_of_accepted ha l).2]
    exact effectOf_lrcSum h i
  · rfl
  · rw [(fed_of_none ha hm l).2, hkeep, h]

/-- Settles O18: the accumulator goes along with the bytes fed, and CRC_VALUE shows it. -/
theorem crcAccumulatorTracksBytes : Obligations.CrcAccumulatorTracksBytes := by
  refine ⟨rfl, fun m s t l h ht => ?moves⟩
  case moves =>
    have hacc := perform_crcAcc h ht
    refine ⟨hacc, ?_⟩
    rw [← hacc]
    exact perform_rdMove_crcValue t

/-- The sum as a byte says the same as the sum mod 256. -/
theorem toNat_eq_sum_mod_iff (x : Byte) (l : List Byte) :
    x.toNat = (l.map BitVec.toNat).sum % 256 ↔ x = lrcSumOf l := by
  rw [← toNat_lrcSumOf, BitVec.toNat_inj]

/-- Settles O19: the sum goes along with the bytes fed, LRC_VALUE shows its negation, and a number and its negation add up
to 0. -/
theorem lrcAccumulatorTracksBytes : Obligations.LrcAccumulatorTracksBytes := by
  refine ⟨rfl, fun m s t l h ht => ?moves, fun l => ?sum⟩
  case moves =>
    have hsum := perform_lrcSum ((toNat_eq_sum_mod_iff _ l).mp h) ht
    refine ⟨(toNat_eq_sum_mod_iff _ _).mpr hsum, ?_⟩
    rw [lrc, ← hsum]
    exact perform_rdMove t (by decide) rfl
  case sum =>
    rw [lrcFunction l]
    omega

/-! ## CRC_BUF and LRC_BUF -/

theorem foldl_effectOf_crcByte (l : List Byte) (s : State) :
    (l.map Instr.crcByte).foldl (fun s i => effectOf i s) s =
      { s with block := { s.block with crcAcc := l.foldl crcStep s.block.crcAcc } } := by
  induction l generalizing s with
  | nil => rfl
  | cons x xs ih =>
    rw [List.map_cons, List.foldl_cons, ih]
    rfl

theorem foldl_effectOf_lrcByte (l : List Byte) (s : State) :
    (l.map Instr.lrcByte).foldl (fun s i => effectOf i s) s =
      { s with block := { s.block with lrcSum := l.foldl (· + ·) s.block.lrcSum } } := by
  induction l generalizing s with
  | nil => rfl
  | cons x xs ih =>
    rw [List.map_cons, List.foldl_cons, ih]
    rfl

/-- A command and then one command for each byte, as CRC_BUF, LRC_BUF and TX_LOAD are written (R79). -/
theorem performAll_buffer {s : State} {i : Instr} {f : Byte → Instr} (hi : s.block.txWait = false)
    (hfirst : i ≠ .rxPoll ∧ i ≠ .txSend) (hbyte : ∀ x, f x ≠ .rxPoll ∧ f x ≠ .txSend) (l : List Byte) :
    performAll (issueMove s.cfg i :: l.map fun x => issueMove s.cfg (f x)) s =
      .next ((l.map f).foldl (fun s i => effectOf i s) (effectOf i s)) := by
  have hall : ∀ j ∈ i :: l.map f, j ≠ .rxPoll ∧ j ≠ .txSend := by
    simpa [hfirst] using fun x _ => hbyte x
  simpa [Function.comp_def] using performAll_issueMoves hi hall

/-- Settles O21: each byte's command feeds the accumulator the first command started. -/
theorem checksumBuffers : Obligations.ChecksumBuffers := by
  intro s l hi
  have hcrc := performAll_buffer (i := .crcInit) (f := .crcByte) hi ⟨nofun, nofun⟩ (fun _ => ⟨nofun, nofun⟩) l
  have hlrc := performAll_buffer (i := .lrcInit) (f := .lrcByte) hi ⟨nofun, nofun⟩ (fun _ => ⟨nofun, nofun⟩) l
  refine ⟨hcrc.trans ?crc, hlrc.trans ?lrc⟩
  case crc =>
    rw [foldl_effectOf_crcByte]
    rfl
  case lrc =>
    have hsum : BitVec.ofNat 8 (l.map BitVec.toNat).sum = lrcSumOf l := by
      apply BitVec.eq_of_toNat_eq
      rw [toNat_lrcSumOf, BitVec.toNat_ofNat]
    rw [foldl_effectOf_lrcByte, hsum]
    rfl

end Sys2Proof.Machine
end

section
/-! Time and spacing. Elapsed time in integer arithmetic and how it grows with the Clock, and the range of the spacing
(40_checksum.md, 41_rx_boundary.md). -/

namespace Sys2Proof.Machine

open Sys2Proof.Config

/-! ## Elapsed time -/

/-- Elapsed time is the difference mod 2^TIME_W (R111). -/
theorem State.elapsed_eq_emod (s : State) {t : Nat} (h : t < 2 ^ s.cfg.timeW) :
    (s.elapsed t : Int) = ((s.clock : Int) - (t : Int)) % (2 ^ s.cfg.timeW : Nat) := by
  rw [State.elapsed, State.now]
  generalize 2 ^ s.cfg.timeW = w at h ⊢
  have hle : t ≤ s.clock % w + w := by omega
  rw [Int.natCast_mod, Nat.cast_sub hle, Nat.cast_add, Int.natCast_mod, add_sub_right_comm, Int.add_emod_right,
    Int.emod_sub_emod]

/-- Settles O24: subtraction mod 2^TIME_W, and a whole 2^TIME_W more leaves `now` as it is. -/
theorem elapsedIsModular : Obligations.ElapsedIsModular := by
  refine ⟨fun s t h => s.elapsed_eq_emod h, fun s t => ?aliasing⟩
  case aliasing => simp [State.elapsed, State.now]

/-! ## The range of the spacing -/

/-- The spacing is at most that of 1 bit per second (R110). -/
theorem packetSpacing_le (p : Params) (v : Word) : packetSpacing p v ≤ p.spacingNum * p.spacingMult := by
  unfold packetSpacing
  split
  · exact Nat.zero_le _
  · exact Nat.mul_le_mul_right _ (Nat.div_le_self _ _)

/-- The product bound of R6 bounds the guard for every bitrate. -/
theorem guard_lt {s : State} (h : s.cfg.legal = true) : s.cfg.guardMult * s.pspace < 2 ^ 32 := by
  simp only [Params.legal, Params.spacingInRange, Bool.and_eq_true, decide_eq_true_eq] at h
  calc s.cfg.guardMult * s.pspace
      ≤ s.cfg.guardMult * (s.cfg.spacingNum * s.cfg.spacingMult) := Nat.mul_le_mul_left _ (packetSpacing_le _ _)
    _ = s.cfg.spacingNum * s.cfg.spacingMult * s.cfg.guardMult := Nat.mul_comm _ _
    _ < 2 ^ 32 := h.2.2

theorem guardMult_pos {p : Params} (h : p.legal = true) : 0 < p.guardMult := by
  simp only [Params.legal, Params.spacingInRange, Bool.and_eq_true, decide_eq_true_eq] at h
  omega

/-- Settles O23: the guard is at least the spacing, so both fit, and SPACING loses no bit. -/
theorem spacingNeverOverflows : Obligations.SpacingNeverOverflows := by
  intro s hlegal
  have hguard := guard_lt hlegal
  have hspace : s.pspace < 2 ^ 32 := (Nat.le_mul_of_pos_left _ (guardMult_pos hlegal)).trans_lt hguard
  refine ⟨hguard, BitVec.ofNat 32 s.pspace, perform_rdMove s (by decide) rfl, ?_⟩
  rw [BitVec.toNat_ofNat, Nat.mod_eq_of_lt hspace]

end Sys2Proof.Machine
end

section
/-! The invariant. It holds after a reset, and each thing a move can do keeps it. -/

namespace Sys2Proof.Machine

open Sys2Proof.Config

/-! ## RX_RESULT -/

/-- The fields of RX_RESULT (R35). -/
theorem extractLsb'_rxResultWord (n : Nat) (c : RxCode) :
    (rxResultWord n c).extractLsb' 0 4 = c.bits ∧ (rxResultWord n c).extractLsb' 4 12 = 0#12 ∧
      (rxResultWord n c).extractLsb' 16 16 = BitVec.ofNat 16 n := by
  unfold rxResultWord
  refine ⟨?_, ?_, ?_⟩ <;> · ext k hk; simp [BitVec.getElem_extractLsb']; grind

/-- What the invariant asks of RX_RESULT: reserved bits 0, a code of R35, and bytes read exactly where it is APPENDED. -/
structure ResultWf (r : Word) : Prop where
  reserved : r.extractLsb' 4 12 = 0#12
  code     : (r.extractLsb' 0 4).toNat ≤ 7
  read     : r.extractLsb' 16 16 ≠ 0#16 ↔ r.extractLsb' 0 4 = 1#4

/-- A poll that got bytes records how many, which 16 bits hold (R6, R35). -/
theorem resultWf_appended {n : Nat} (h0 : n ≠ 0) (hn : n < 2 ^ 16) : ResultWf (rxResultWord n .appended) := by
  obtain ⟨hcode, hrsv, hread⟩ := extractLsb'_rxResultWord n .appended
  have hne : BitVec.ofNat 16 n ≠ 0#16 := by
    intro h
    have := congrArg BitVec.toNat h
    rw [BitVec.toNat_ofNat, Nat.mod_eq_of_lt hn] at this
    exact h0 this
  refine ⟨hrsv, ?_, ?_⟩
  · rw [hcode]
    decide
  · rw [hcode, hread]
    exact iff_of_true hne rfl

/-- Every other outcome of a poll records that no byte was read (R35). -/
theorem resultWf_noBytes {c : RxCode} (h : c ≠ .appended) : ResultWf (rxResultWord 0 c) := by
  obtain ⟨hcode, hrsv, hread⟩ := extractLsb'_rxResultWord 0 c
  refine ⟨hrsv, ?_, ?_⟩
  · rw [hcode]
    cases c <;> decide
  · rw [hcode, hread]
    cases c with
    | appended => exact absurd rfl h
    | _ => decide

/-! ## What keeps the invariant -/

theorem State.now_lt (s : State) : s.now < 2 ^ s.cfg.timeW := Nat.mod_lt _ (Nat.two_pow_pos _)

theorem State.now_le_clock (s : State) : s.now ≤ s.clock := Nat.mod_le _ _

/-- The state after a reset of a block with parameters in range (R190). -/
theorem State.resetBlock_inv {s : State} (h : s.cfg.legal = true) : s.resetBlock.Inv := by
  obtain ⟨hpend, hpendLen, hfout, hframeLen, htxb, htxLen⟩ := Block.afterReset_buffersWf s.cfg s.now
  have hact : s.resetBlock.block.tLastAct ≤ s.now := by
    rw [State.resetBlock_block, Block.afterReset_tLastAct]
    split
    · exact Nat.le_refl _
    · exact Nat.zero_le _
  have hresult : ResultWf 0#32 := resultWf_noBytes (c := .none) nofun
  constructor
  case legal => exact h
  case pendSize => exact hpend
  case pendLenLe => exact hpendLen
  case foutSize => exact hfout
  case frameLenLe => exact hframeLen
  case txbSize => exact htxb
  case txLenLe => exact htxLen
  case tLastRxLt => exact Nat.two_pow_pos _
  case tLastActLt => exact hact.trans_lt s.now_lt
  case tLastRxPast => exact Nat.zero_le _
  case tLastActPast => exact hact.trans s.now_le_clock
  case ovfFull => exact nofun
  case frameMin => exact nofun
  case frameNone => exact fun _ => rfl
  case waitBitrate => exact nofun
  case armedValid =>
    intro harmed
    rw [State.resetBlock_block, Block.afterReset_actValid]
    exact decide_eq_true harmed
  case pendActivity => exact fun hne => absurd rfl hne
  case resultReserved => exact hresult.reserved
  case resultCode => exact hresult.code
  case resultRead => exact hresult.read

/-- Settles O57: the state after reset is that of the reset input with the defaults, which are in range. -/
theorem resetHasInv : Obligations.ResetHasInv := State.resetBlock_inv (s := State.reset) (by decide)

/-- The sticky flags are no part of the invariant. -/
theorem State.Inv.sticky {s : State} (h : s.Inv) (v : BitVec 8) :
    ({ s with block := { s.block with sticky := v } } : State).Inv := { h with }

theorem State.Inv.reject {s : State} (h : s.Inv) : s.reject.Inv := { h with }

/-- What the transport, the line, the host and the schedule hold is no part of the invariant. -/
theorem State.Inv.agents {s : State} (h : s.Inv) (tr : Transport) (l : List Sent) (v : Word) (sc : List Move) (n : Nat) :
    ({ s with transport := tr, line := l, readData := v, script := sc, draws := n } : State).Inv := { h with }

/-- A poll's outcome recorded. -/
theorem State.Inv.recordPoll {s : State} (h : s.Inv) {n : Nat} {c : RxCode} (hr : ResultWf (rxResultWord n c)) :
    (s.onBlock (·.recordPoll n c)).Inv :=
  { h with resultReserved := hr.reserved, resultCode := hr.code, resultRead := hr.read }

/-- The parameters leave FOUT room for a candidate without its CRC (R6). -/
theorem pendingCap_bounds {p : Params} (h : p.legal = true) : 4 ≤ p.pendingCap ∧ p.readMax < 2 ^ 16 := by
  simp only [Params.legal, Params.pendingCapInRange, Params.readMaxInRange, Bool.and_eq_true, decide_eq_true_eq] at h
  omega

/-- Bytes received (R114). -/
theorem State.Inv.accumulate {s : State} (h : s.Inv) {new : List Byte} (h0 : new ≠ [])
    (hn : new.length ≤ s.cfg.readMax) : (s.onBlock (·.accumulate s.cfg.pendingCap s.now new)).Inv := by
  obtain ⟨pend, hsize, -, hfold⟩ := Block.foldl_pushPend s.cfg.pendingCap new s.block h.pendSize h.pendLenLe
  have hr : ResultWf (rxResultWord new.length .appended) :=
    resultWf_appended (mt List.eq_nil_of_length_eq_zero h0) (hn.trans_lt (pendingCap_bounds h.legal).2)
  have hfull : (s.block.pendOvf || decide (s.cfg.pendingCap < s.block.pendLen + new.length)) = true →
      min (s.block.pendLen + new.length) s.cfg.pendingCap = s.cfg.pendingCap := by
    intro hovf
    rw [Bool.or_eq_true, decide_eq_true_eq] at hovf
    have hle : s.block.pendOvf = true → s.cfg.pendingCap ≤ s.block.pendLen := fun ho => (h.ovfFull ho).ge
    have : s.cfg.pendingCap ≤ s.block.pendLen + new.length :=
      hovf.elim (fun ho => (hle ho).trans (Nat.le_add_right _ _)) Nat.le_of_lt
    exact Nat.min_eq_right this
  rw [State.onBlock, Block.accumulate, hfold]
  exact { h with
    pendSize := hsize
    pendLenLe := Nat.min_le_right _ _
    tLastRxLt := s.now_lt
    tLastActLt := s.now_lt
    tLastRxPast := s.now_le_clock
    tLastActPast := s.now_le_clock
    ovfFull := hfull
    armedValid := fun _ => rfl
    pendActivity := fun _ => rfl
    resultReserved := hr.reserved
    resultCode := hr.code
    resultRead := hr.read }

theorem State.Inv.emptyPend {s : State} (h : s.Inv) : (s.onBlock Block.emptyPend).Inv :=
  { h with
    pendLenLe := Nat.zero_le _
    ovfFull := nofun
    pendActivity := fun hne => absurd rfl hne }

theorem State.Inv.raise {s : State} (h : s.Inv) (f : Flag) : (s.onBlock (·.raise f)).Inv := { h with }

theorem State.Inv.raiseIf {s : State} (h : s.Inv) (c : Bool) (f : Flag) : (s.onBlock (·.raiseIf c f)).Inv := by
  cases c with
  | false => exact h
  | true => exact h.raise f

/-- A frame that fits FOUT and has at least two bytes (R117). -/
theorem State.Inv.latchFrame {s : State} (h : s.Inv) {f : List Byte} (h2 : 2 ≤ f.length)
    (hf : f.length ≤ s.cfg.foutCap) : (s.onBlock (·.latchFrame f)).Inv := by
  obtain ⟨-, -, hsize, -⟩ := s.block.latchFrame_buffersWf s.cfg f h.buffersWf hf
  exact { h with
    foutSize := hsize
    frameLenLe := hf
    frameMin := fun _ => h2
    frameNone := nofun }

/-- A candidate judged (R116, R117, R118). -/
theorem State.Inv.judge {s : State} (h : s.Inv) {c : List Byte} (hc : c.length ≤ s.cfg.pendingCap) (lost : Bool) :
    (s.onBlock (·.judge c lost)).Inv := by
  obtain ⟨-, he⟩ | ⟨-, -, he⟩ | ⟨-, h4, -, he⟩ | ⟨-, -, -, he⟩ := s.block.judge_cases c lost <;>
    rw [State.onBlock, he]
  case inr.inr.inl =>
    have hbody : (c.take (c.length - 2)).length = c.length - 2 := List.length_take_of_le (Nat.sub_le _ _)
    exact ((h.raiseIf s.block.frameValid .frameOvr).latchFrame (by omega)
      (hbody.trans_le (Nat.sub_le_sub_right hc 2))).recordPoll (resultWf_noBytes nofun)
  case inl => exact h.recordPoll (resultWf_noBytes nofun)
  case inr.inl => exact (h.raise .rxShort).recordPoll (resultWf_noBytes nofun)
  case inr.inr.inr => exact (h.raise .rxCrc).recordPoll (resultWf_noBytes nofun)

theorem State.Inv.poll {s : State} (h : s.Inv) : s.poll.Inv := by
  obtain ⟨hlen, tr, n, hdraw⟩ := s.transportRead_spec
  have hdrawn := h.agents tr s.line s.readData s.script n
  have hpending : s.block.pending.length ≤ s.cfg.pendingCap :=
    (s.block.pending_length s.cfg h.buffersWf).trans_le h.pendLenLe
  obtain ⟨hne, hp⟩ | ⟨-, -, hp⟩ | ⟨-, -, -, hp⟩ | ⟨-, -, -, hp⟩ := s.poll_cases <;> rw [hp, hdraw]
  · exact hdrawn.accumulate hne hlen
  · exact hdrawn.recordPoll (resultWf_noBytes nofun)
  · exact hdrawn.recordPoll (resultWf_noBytes nofun)
  · exact hdrawn.emptyPend.judge hpending s.block.pendOvf

theorem State.Inv.sequencerTurn {s : State} (h : s.Inv) : s.sequencerTurn.Inv := by
  obtain he | ⟨-, tr, n, f, -, ⟨bytes, he⟩ | he⟩ := s.sequencerTurn_cases <;> rw [he]
  · exact h
  · exact { h with
      txLenLe := Nat.zero_le _
      tLastActLt := s.now_lt
      tLastActPast := s.now_le_clock
      waitBitrate := nofun
      armedValid := fun _ => rfl
      pendActivity := fun _ => rfl }
  · exact { h with
      txLenLe := Nat.zero_le _
      waitBitrate := nofun }

/-- An accepted command; a send is accepted only with a bitrate (R163). -/
theorem State.Inv.effectOf {s : State} (h : s.Inv) {i : Instr} (hr : ¬ rejects i s) : (effectOf i s).Inv := by
  cases i with
  | rxPoll => exact h.poll
  | frameAck => exact { h with frameLenLe := Nat.zero_le _, frameMin := nofun, frameNone := fun _ => rfl }
  | txClear => exact { h with txLenLe := Nat.zero_le _ }
  | txPush x =>
    obtain ⟨-, -, -, -, hsize, hlen⟩ := s.block.pushTx_buffersWf s.cfg x h.buffersWf
    rw [Machine.effectOf, State.onBlock, Block.pushTx_frame]
    exact { h with txbSize := hsize, txLenLe := hlen }
  | txSend => exact { h with waitBitrate := fun _ hz => hr (.inr ⟨.inr rfl, hz⟩) }
  | _ => exact { h with }

/-- BITRATE is written only while no send is pending (R32). -/
theorem State.Inv.writeBitrate {s : State} (h : s.Inv) (v : Word) : (writeBitrate v s).Inv := by
  obtain ⟨-, he⟩ | ⟨hi, he⟩ := writeBitrate_cases v s <;> rw [he]
  · exact h.reject
  · exact { h with waitBitrate := fun hw => absurd (hi.symm.trans hw) Bool.false_ne_true }

theorem State.Inv.performed {m : Move} {s t : State} (h : s.Inv) (hp : Performed m s t) : t.Inv := by
  cases hp with
  | command i ha => exact h.effectOf (not_rejects_of_accepted ha)
  | rejected v hc ha => exact h.reject
  | read a w v hm => exact h.agents s.transport s.line v s.script s.draws
  | statusWrite v hm hc => exact h.sticky _
  | bitrateWrite v hm hc => exact h.writeBitrate v
  | ignored a v hm hc => exact h
  | clock n hm hn => exact { h with tLastRxPast := h.tLastRxPast.trans hn, tLastActPast := h.tLastActPast.trans hn }
  | fire hm => exact h.sequencerTurn
  | reset hm => exact State.resetBlock_inv h.legal

theorem State.Inv.perform {m : Move} {s t : State} (h : s.Inv) (ht : perform m s = .next t) : t.Inv :=
  h.performed (perform_cases ht)

theorem State.Inv.performAll {ms : List Move} {s t : State} (h : s.Inv) (ht : performAll ms s = .next t) : t.Inv :=
  performAll_induction (fun _ _ _ _ hu hv => hu.perform hv) h ht

theorem State.Inv.taken {s : State} (h : s.Inv) : s.taken.Inv := by
  obtain ⟨sc, n, he⟩ := s.taken_spec
  rw [he]
  exact h.agents s.transport s.line s.readData sc n

/-- Settles O56: taking the next move touches no element of the invariant, and every move keeps it. -/
theorem stepKeepsInv : Obligations.StepKeepsInv := fun _ _ h ht => h.taken.perform ht

end Sys2Proof.Machine
end

section
/-! Events. Which sticky flags each operation can set, and what can clear a flag or change RX_RESULT (60_exceptions.md). -/

namespace Sys2Proof.Machine

/-! ## Flags set by one operation -/

/-- Bytes received can set RX_OVF only, and it stays one flag however many bytes are lost (R114). -/
theorem Block.foldl_pushPend_sticky (cap : Nat) (new : List Byte) (b : Block) :
    (new.foldl (Block.pushPend cap) b).sticky = b.sticky ∨
      (new.foldl (Block.pushPend cap) b).sticky = b.sticky ||| 0x10#8 := by
  induction new generalizing b with
  | nil => exact .inl rfl
  | cons x xs ih =>
    have hx : (b.pushPend cap x).sticky = b.sticky ∨ (b.pushPend cap x).sticky = b.sticky ||| 0x10#8 := by
      unfold Block.pushPend
      split
      · exact .inl rfl
      · exact .inr rfl
    rw [List.foldl_cons]
    obtain h | h := ih (b.pushPend cap x) <;> obtain hx | hx := hx <;> rw [h, hx]
    · exact .inl rfl
    · exact .inr rfl
    · exact .inr rfl
    · exact .inr (by rw [BitVec.or_assoc, BitVec.or_self])

/-- A candidate judged sets at most one flag (R116, R117, R118). -/
theorem Block.judge_sticky (c : List Byte) (lost : Bool) (b : Block) :
    (b.judge c lost).sticky = b.sticky ∨
      ∃ f ∈ [0x04#8, 0x08#8, 0x20#8], (b.judge c lost).sticky = b.sticky ||| f := by
  obtain ⟨-, h⟩ | ⟨-, -, h⟩ | ⟨-, -, -, h⟩ | ⟨-, -, -, h⟩ := b.judge_cases c lost <;> rw [h]
  · exact .inl rfl
  · exact .inr ⟨0x04#8, by simp, rfl⟩
  · cases b.frameValid with
    | false => exact .inl rfl
    | true => exact .inr ⟨0x20#8, by simp, rfl⟩
  · exact .inr ⟨0x08#8, by simp, rfl⟩

/-- A poll sets at most one of the receive flags (R171). -/
theorem State.poll_sticky (s : State) :
    s.poll.block.sticky = s.block.sticky ∨
      ∃ f ∈ [0x04#8, 0x08#8, 0x10#8, 0x20#8], s.poll.block.sticky = s.block.sticky ||| f := by
  by_cases hn : s.transportRead.1 = []
  · rw [State.poll_of_noBytes hn]
    dsimp only
    split_ifs
    · exact .inl rfl
    · exact .inl rfl
    · exact (s.block.emptyPend.judge_sticky s.block.pending s.block.pendOvf).imp_right fun ⟨f, hf, h⟩ =>
        ⟨f, by simp only [List.mem_cons] at hf ⊢; tauto, h⟩
  · rw [State.poll_of_bytes hn]
    exact (Block.foldl_pushPend_sticky _ _ s.block).imp_right fun h => ⟨0x10#8, by simp, h⟩

/-- The flags a move can set, by what the move is. -/
inductive FlagsSet (m : Move) (s : State) (sticky : BitVec 8) : Prop where
  | none (h : sticky = s.block.sticky)
  | rejected (v : Word) (hc : commandWord m s = some v) (ha : accepted m s = .none)
      (h : sticky = s.block.sticky ||| 0x80#8)
  | bitrate (v : Word) (hb : s.block.txWait = true) (hm : m = wrMove s.cfg 0x010 v)
      (h : sticky = s.block.sticky ||| 0x80#8)
  | receive (f : BitVec 8) (ha : accepted m s = some .rxPoll) (hf : f ∈ [0x04#8, 0x08#8, 0x10#8, 0x20#8])
      (h : sticky = s.block.sticky ||| f)
  | push (x : Byte) (ha : accepted m s = some (.txPush x)) (hfull : s.cfg.txCap ≤ s.block.txLen)
      (h : sticky = s.block.sticky ||| 0x40#8)
  | fire (f : BitVec 8) (hm : m = .fire) (he : s.txFireEnabled = true) (hf : f ∈ [0x01#8, 0x02#8])
      (h : sticky = s.block.sticky ||| f)

/-- Of the commands a poll and a push to a full TXB alone set flags. -/
theorem flagsSet_of_accepted {m : Move} {s : State} {i : Instr} (ha : accepted m s = some i) :
    FlagsSet m s (effectOf i s).block.sticky := by
  cases i with
  | rxPoll =>
    obtain h | ⟨f, hf, h⟩ := s.poll_sticky
    · exact .none h
    · exact .receive f ha hf h
  | txPush x =>
    by_cases hroom : s.block.txLen < s.cfg.txCap
    · refine .none ?_
      rw [effectOf, State.onBlock_block, Block.pushTx_of_room hroom]
    · have hfull := Nat.le_of_not_lt hroom
      refine .push x ha hfull ?_
      rw [effectOf, State.onBlock_block, Block.pushTx_of_full hfull]
      rfl
  | _ => exact .none rfl

/-- A move other than a reset and a write to STATUS sets the flags its operation sets, and no others. -/
theorem Performed.flagsSet {m : Move} {s t : State} (h : Performed m s t) :
    m = .reset ∨ (∃ v, m = wrMove s.cfg 0x004 v ∧ t = s.onBlock (·.clearFlags v)) ∨
      FlagsSet m s t.block.sticky := by
  cases h with
  | command i ha => exact .inr (.inr (flagsSet_of_accepted ha))
  | rejected v hc ha => exact .inr (.inr (.rejected v hc ha rfl))
  | statusWrite v hm hc => exact .inr (.inl ⟨v, hm, rfl⟩)
  | bitrateWrite v hm hc =>
    obtain ⟨hb, h⟩ | ⟨-, h⟩ := writeBitrate_cases v s <;> rw [h]
    · exact .inr (.inr (.bitrate v hb hm rfl))
    · exact .inr (.inr (.none rfl))
  | fire hm =>
    obtain h | ⟨he, tr, n, f, hf, ⟨bytes, h⟩ | h⟩ := s.sequencerTurn_cases <;> rw [h]
    · exact .inr (.inr (.none rfl))
    · exact .inr (.inr (.fire f hm he hf rfl))
    · exact .inr (.inr (.fire f hm he hf rfl))
  | reset hm => exact .inl hm
  | read | ignored | clock => exact .inr (.inr (.none rfl))

/-- Settles O53: the flags of each operation, in the order of the statement's cases. -/
theorem eventsOfOneMove : Obligations.EventsOfOneMove := by
  intro m s t ht
  obtain hm | ⟨v, hm, -⟩ | h := (perform_cases ht).flagsSet
  · exact .inl hm
  · exact .inr (.inl ⟨v, hm⟩)
  refine .inr (.inr ?_)
  cases h with
  | none h => exact .inl h
  | rejected v hc ha h => exact .inr (.inl ⟨h, .inl ⟨⟨v, hc⟩, ha⟩⟩)
  | bitrate v hb hm h => exact .inr (.inl ⟨h, .inr ⟨hb, v, hm⟩⟩)
  | receive f ha hf h => exact .inr (.inr (.inl ⟨ha, f, hf, h⟩))
  | push x ha hfull h => exact .inr (.inr (.inr (.inl ⟨⟨x, ha⟩, hfull, h⟩)))
  | fire f hm he hf h => exact .inr (.inr (.inr (.inr ⟨hm, he, f, hf, h⟩)))

/-! ## Flags and RX_RESULT stay -/

/-- Whatever a move sets, it only adds to the flags. -/
theorem FlagsSet.eq_or {m : Move} {s : State} {sticky : BitVec 8} (h : FlagsSet m s sticky) :
    ∃ f, sticky = s.block.sticky ||| f := by
  cases h with
  | none h => exact ⟨0#8, by rw [h, BitVec.or_zero]⟩
  | rejected v hc ha h => exact ⟨_, h⟩
  | bitrate v hb hm h => exact ⟨_, h⟩
  | receive f ha hf h => exact ⟨_, h⟩
  | push x ha hfull h => exact ⟨_, h⟩
  | fire f hm he hf h => exact ⟨_, h⟩

/-- The bit of a flag after a write to STATUS (R24). -/
theorem Block.clearFlags_getLsbD (v : Word) (b : Block) {k : Nat} (hk : k < 8) :
    (b.clearFlags v).sticky.getLsbD k = (b.sticky.getLsbD k && !v.getLsbD (8 + k)) := by
  simp [hk]

/-- RX_RESULT is written by an accepted poll and by reset only (R35). -/
theorem Performed.rxResult {m : Move} {s t : State} (h : Performed m s t) :
    m = .reset ∨ accepted m s = some .rxPoll ∨ t.block.rxResult = s.block.rxResult := by
  cases h with
  | command i ha =>
    cases i with
    | rxPoll => exact .inr (.inl ha)
    | txPush x =>
      rw [effectOf, State.onBlock_block, Block.pushTx_frame]
      exact .inr (.inr rfl)
    | _ => exact .inr (.inr rfl)
  | bitrateWrite v hm hc =>
    obtain ⟨-, h⟩ | ⟨-, h⟩ := writeBitrate_cases v s <;> rw [h] <;> exact .inr (.inr rfl)
  | fire hm =>
    obtain h | ⟨-, tr, n, f, -, ⟨bytes, h⟩ | h⟩ := s.sequencerTurn_cases <;> rw [h] <;> exact .inr (.inr rfl)
  | reset hm => exact .inl hm
  | rejected | read | statusWrite | ignored | clock => exact .inr (.inr rfl)

/-- Settles O54: a move other than a reset and a STATUS write only adds flags, and only a poll and a reset write RX_RESULT. -/
theorem flagsFallOnlyByHostOrReset : Obligations.FlagsFallOnlyByHostOrReset := by
  intro m s t ht
  have hp := perform_cases ht
  refine ⟨fun k hk hset hclear => ?flags, fun hne => ?result⟩
  case flags =>
    obtain hm | ⟨v, hm, rfl⟩ | h := hp.flagsSet
    · exact .inl hm
    · rw [State.onBlock_block, Block.clearFlags_getLsbD v _ hk, hset] at hclear
      exact .inr ⟨v, hm, by simpa using hclear⟩
    · obtain ⟨f, hf⟩ := h.eq_or
      rw [hf, BitVec.getLsbD_or, hset] at hclear
      cases hclear
  case result =>
    obtain hm | ha | he := hp.rxResult
    · exact .inl hm
    · exact .inr ha
    · exact absurd he hne

end Sys2Proof.Machine
end

section
/-! Sending. TX_LOAD, the gate and the held turn, what a send neither reads nor writes, and how long it waits (42_tx_framer.md). -/

namespace Sys2Proof.Machine

/-! ## TX_LOAD -/

/-- What a cut has dropped stays dropped. -/
theorem take_append_of_take (l m : List Byte) (n : Nat) : (l.take n ++ m).take n = (l ++ m).take n := by
  rw [List.take_append, List.take_append, List.take_take, Nat.min_self, List.length_take]
  congr 2
  omega

/-- One byte more, cut to the capacity (R143). -/
theorem Block.pushTx_payload_cut {cap : Nat} {b : Block} (hs : b.txb.length = cap) (hl : b.txLen ≤ cap) (x : Byte) :
    (b.pushTx cap x).payload = (b.payload ++ [x]).take cap := by
  have hpay : b.payload.length = b.txLen := List.length_take_of_le (hl.trans_eq hs.symm)
  by_cases h : b.txLen < cap
  · rw [Block.pushTx_payload cap b x h hs, List.take_of_length_le]
    rw [List.length_append, hpay]
    exact h
  · have hfull : b.payload.length = cap := by omega
    rw [Block.pushTx_of_full (Nat.le_of_not_lt h)]
    exact (List.take_left' hfull).symm

/-- `b'` is `b` after the bytes `l` were pushed to TXB: the payload grows up to the capacity, and what does not fit is dropped
and flagged (R143). -/
structure Block.PushedTx (cap : Nat) (b : Block) (l : List Byte) (b' : Block) : Prop where
  size    : b'.txb.length = cap
  payload : b'.payload = (b.payload ++ l).take cap
  rest    : b' = { b with
    txb := b'.txb
    txLen := min (b.txLen + l.length) cap
    sticky := if cap < b.txLen + l.length then b.sticky ||| 0x40#8 else b.sticky }

theorem Block.PushedTx.nil {cap : Nat} {b : Block} (hs : b.txb.length = cap) (hl : b.txLen ≤ cap) :
    Block.PushedTx cap b [] b := by
  have hpay : b.payload.length = b.txLen := List.length_take_of_le (hl.trans_eq hs.symm)
  refine ⟨hs, ?_, ?_⟩
  · rw [List.append_nil, List.take_of_length_le (hpay.trans_le hl)]
  · rw [List.length_nil, Nat.add_zero, Nat.min_eq_left hl, if_neg (Nat.not_lt.mpr hl)]

theorem Block.PushedTx.concat {cap : Nat} {b b' : Block} {l : List Byte} (h : Block.PushedTx cap b l b') (x : Byte) :
    Block.PushedTx cap b (l ++ [x]) (b'.pushTx cap x) := by
  have hlen : b'.txLen = min (b.txLen + l.length) cap := by rw [h.rest]
  have hpay := Block.pushTx_payload_cut h.size (hlen.trans_le (Nat.min_le_right _ _)) x
  rw [h.payload, take_append_of_take, List.append_assoc] at hpay
  have hadd : (l ++ [x]).length = l.length + 1 := by simp
  by_cases hroom : b'.txLen < cap
  · refine ⟨?_, hpay, ?_⟩
    · rw [Block.pushTx_of_room hroom, List.length_set, h.size]
    · rw [Block.pushTx_of_room hroom, h.rest, hadd, if_neg (by omega), if_neg (by omega)]
      simp only [Block.mk.injEq, true_and, and_true]
      omega
  · refine ⟨?_, hpay, ?_⟩
    · rw [Block.pushTx_of_full (Nat.le_of_not_lt hroom), Block.raise_txb, h.size]
    · rw [Block.pushTx_of_full (Nat.le_of_not_lt hroom), h.rest, hadd, if_pos (by omega : cap < b.txLen + (l.length + 1)),
        Nat.min_eq_right (by omega), Nat.min_eq_right (by omega), Block.raise]
      split
      · rw [BitVec.or_assoc]
        rfl
      · rfl

theorem Block.foldl_pushTx {cap : Nat} {b : Block} (hs : b.txb.length = cap) (hl : b.txLen ≤ cap) (l : List Byte) :
    Block.PushedTx cap b l (l.foldl (fun b x => b.pushTx cap x) b) := by
  induction l using List.reverseRecOn with
  | nil => exact .nil hs hl
  | append_singleton l x ih =>
    rw [List.foldl_append]
    exact ih.concat x

theorem foldl_effectOf_txPush (l : List Byte) (s : State) :
    (l.map Instr.txPush).foldl (fun s i => effectOf i s) s =
      { s with block := l.foldl (fun b x => b.pushTx s.cfg.txCap x) s.block } := by
  induction l generalizing s with
  | nil => rfl
  | cons x xs ih =>
    rw [List.map_cons, List.foldl_cons, ih]
    rfl

/-- Settles O35: each byte is pushed to the TXB that TX_CLEAR has emptied. -/
theorem txLoadBuildsPayload : Obligations.TxLoadBuildsPayload := by
  intro s l hinv hi
  have hload := performAll_buffer (i := .txClear) (f := .txPush) hi ⟨nofun, nofun⟩ (fun _ => ⟨nofun, nofun⟩) l
  rw [foldl_effectOf_txPush] at hload
  obtain ⟨hsize, hpayload, hrest⟩ := Block.foldl_pushTx (b := (effectOf .txClear s).block) hinv.txbSize (Nat.zero_le _) l
  have hlen : (effectOf .txClear s).block.txLen + l.length = l.length := Nat.zero_add _
  rw [hlen] at hrest
  exact ⟨_, hload, hpayload, hsize.trans hinv.txbSize.symm, congrArg (fun b => { s with block := b }) hrest⟩

/-! ## The gate and the held turn -/

/-- The gate opens at the guard; without a real activity time it is open (R33, R140). -/
theorem State.txGateOpen_iff (s : State) :
    s.txGateOpen = true ↔ s.block.actValid = false ∨ s.cfg.guardMult * s.pspace ≤ s.elapsed s.block.tLastAct := by
  simp [State.txGateOpen]

theorem State.txFireEnabled_iff (s : State) :
    s.txFireEnabled = true ↔ s.block.txWait = true ∧ s.txGateOpen = true := by
  simp [State.txFireEnabled]

/-- The frame of an empty payload is the start value of the CRC (R90, R141). -/
theorem wireFrame_nil : wireFrame [] = [0xFF#8, 0xFF#8] := rfl

/-- Settles O37: a turn that is not enabled holds, and one that is sends the two bytes of an empty payload's CRC. -/
theorem gateAndHold : Obligations.GateAndHold := by
  intro s
  refine ⟨s.txGateOpen_iff, fun hoff => ?held, fun hlen hen hall => ?emptyFrame⟩
  case held => exact congrArg Host.Outcome.next (State.sequencerTurn_disabled (mt s.txFireEnabled_iff.mp hoff))
  case emptyFrame =>
    have hframe : wireFrame s.block.payload = [0xFF#8, 0xFF#8] := by
      rw [Block.payload, hlen, List.take_zero, wireFrame_nil]
    have hdraw : s.transportWrite (wireFrame s.block.payload).length = (2, (s.transportWrite 2).2) := by
      rw [hframe]
      exact Prod.ext hall rfl
    have hfire := State.txFire_of_taken (by decide) hdraw
    rw [hframe] at hfire
    refine ⟨s.txFire, congrArg Host.Outcome.next (State.sequencerTurn_enabled hen), ?_⟩
    rw [hfire]
    exact ⟨rfl, rfl, rfl⟩

/-! ## A send is blind to the receiver -/

/-- What the receiver has of its own: the pending buffer, its timestamp, the latched frame and the unread bytes. -/
structure Receiver where
  pend       : List Byte
  fout       : List Byte
  pendLen    : Nat
  frameLen   : Nat
  tLastRx    : Nat
  pendOvf    : Bool
  frameValid : Bool
  reads      : List (List Byte)

/-- The state with another receiver. -/
def State.withReceiver (r : Receiver) (s : State) : State :=
  { s with
    transport := { s.transport with reads := r.reads }
    block := { s.block with pend := r.pend, fout := r.fout, pendLen := r.pendLen, frameLen := r.frameLen,
                            tLastRx := r.tLastRx, pendOvf := r.pendOvf, frameValid := r.frameValid } }

theorem State.transportWrite_withReceiver (r : Receiver) (len : Nat) (s : State) :
    (s.withReceiver r).transportWrite len = ((s.transportWrite len).1, (s.transportWrite len).2.withReceiver r) := by
  cases h : s.transport.writes <;> simp [State.transportWrite, State.withReceiver, h]

theorem State.txFire_withReceiver (r : Receiver) (s : State) :
    (s.withReceiver r).txFire = s.txFire.withReceiver r := by
  obtain ⟨k, tr, n, -, hdraw, -⟩ := s.txFire_eq
  have hdraw' : (s.withReceiver r).transportWrite (wireFrame (s.withReceiver r).block.payload).length =
      (k, ({ s with transport := tr, draws := n } : State).withReceiver r) := by
    have hpay : (s.withReceiver r).block.payload = s.block.payload := rfl
    rw [hpay, s.transportWrite_withReceiver r, hdraw]
  obtain rfl | hk := k.eq_zero_or_pos
  · rw [State.txFire_of_none hdraw, State.txFire_of_none hdraw']
    rfl
  · rw [State.txFire_of_taken hk hdraw, State.txFire_of_taken hk hdraw']
    rfl

theorem State.sequencerTurn_withReceiver (r : Receiver) (s : State) :
    (s.withReceiver r).sequencerTurn = s.sequencerTurn.withReceiver r := by
  have hen : (s.withReceiver r).txFireEnabled = s.txFireEnabled := rfl
  rw [State.sequencerTurn, State.sequencerTurn, hen, s.txFire_withReceiver r, apply_ite (State.withReceiver r)]

/-- A command is accepted or not without a look at the receiver. -/
theorem accepted_withReceiver (m : Move) (r : Receiver) (s : State) : accepted m (s.withReceiver r) = accepted m s := rfl

/-- Settles O40: TX_SEND's acceptance and effect and the sequencer's turn commute with a change of receiver. -/
theorem sendIgnoresReceiver : Obligations.SendIgnoresReceiver := by
  rintro m s (hs | rfl)
  · refine ⟨effectOf .txSend s, perform_of_accepted hs, ?_⟩
    intro pend fout pendLen frameLen tLastRx pendOvf frameValid reads
    let r : Receiver := { pend, fout, pendLen, frameLen, tLastRx, pendOvf, frameValid, reads }
    exact perform_of_accepted ((accepted_withReceiver m r s).trans hs)
  · refine ⟨s.sequencerTurn, rfl, ?_⟩
    intro pend fout pendLen frameLen tLastRx pendOvf frameValid reads
    let r : Receiver := { pend, fout, pendLen, frameLen, tLastRx, pendOvf, frameValid, reads }
    exact congrArg Host.Outcome.next (s.sequencerTurn_withReceiver r)

/-! ## The spacing guarantee -/

/-- The time elapsed since a past time, of which a timestamp keeps the low bits (R111). -/
theorem State.elapsed_mod (s : State) {u : Nat} (h : u ≤ s.clock) :
    s.elapsed (u % 2 ^ s.cfg.timeW) = (s.clock - u) % 2 ^ s.cfg.timeW := by
  have he := s.elapsed_eq_emod (Nat.mod_lt u (Nat.two_pow_pos s.cfg.timeW))
  rw [Int.natCast_mod, Int.sub_emod_emod, ← Nat.cast_sub h, ← Int.natCast_mod] at he
  exact_mod_cast he

/-- The last real activity was no earlier than `u0`. -/
def State.ActiveSince (u0 : Nat) (s : State) : Prop :=
  s.block.actValid = true ∧ ∃ u, u0 ≤ u ∧ u ≤ s.clock ∧ s.block.tLastAct = u % 2 ^ s.cfg.timeW

/-- Bytes that came or went just now are the last activity. -/
theorem State.activeSince_of_now {u0 : Nat} {s t : State} (h0 : u0 ≤ s.clock) (hcont : s.Continues t)
    (hv : t.block.actValid = true) (ht : t.block.tLastAct = s.now) : t.ActiveSince u0 :=
  ⟨hv, s.clock, h0, hcont.clock, by rw [ht, State.now, hcont.cfg]⟩

/-- A move other than a reset leaves the activity time alone or notes activity now (R33, R114, R147). -/
theorem Performed.activity {m : Move} {s t : State} (h : Performed m s t) (hm : m ≠ .reset) :
    (t.block.tLastAct = s.block.tLastAct ∧ t.block.actValid = s.block.actValid) ∨
      (t.block.tLastAct = s.now ∧ t.block.actValid = true) := by
  cases h with
  | command i ha =>
    cases i with
    | rxPoll =>
      by_cases hn : s.transportRead.1 = []
      · rw [effectOf, State.poll_noBytes_frame hn]
        exact .inl ⟨rfl, rfl⟩
      · rw [effectOf, State.poll_of_bytes hn]
        exact .inr ⟨rfl, rfl⟩
    | txPush x =>
      rw [effectOf, State.onBlock_block, Block.pushTx_frame]
      exact .inl ⟨rfl, rfl⟩
    | _ => exact .inl ⟨rfl, rfl⟩
  | bitrateWrite v hm hc =>
    obtain ⟨-, h⟩ | ⟨-, h⟩ := writeBitrate_cases v s <;> rw [h] <;> exact .inl ⟨rfl, rfl⟩
  | fire hm =>
    obtain h | ⟨-, tr, n, f, -, ⟨bytes, h⟩ | h⟩ := s.sequencerTurn_cases <;> rw [h]
    · exact .inl ⟨rfl, rfl⟩
    · exact .inr ⟨rfl, rfl⟩
    · exact .inl ⟨rfl, rfl⟩
  | reset hr => exact absurd hr hm
  | rejected | read | statusWrite | ignored | clock => exact .inl ⟨rfl, rfl⟩

theorem State.ActiveSince.perform {u0 : Nat} {m : Move} {s t : State} (h : s.ActiveSince u0) (hm : m ≠ .reset)
    (ht : perform m s = .next t) : t.ActiveSince u0 := by
  obtain ⟨hv, u, hu0, hu, hlast⟩ := h
  have hp := perform_cases ht
  obtain ⟨hlast', hv'⟩ | ⟨hnow, hv'⟩ := hp.activity hm
  · exact ⟨hv'.trans hv, u, hu0, hu.trans hp.continues.clock, by rw [hlast', hlast, hp.continues.cfg]⟩
  · exact State.activeSince_of_now (hu0.trans hu) hp.continues hv' hnow

/-- With the gate open, at least the guard has passed since the last activity (R140). -/
theorem State.ActiveSince.guard_passed {u0 : Nat} {s : State} (h : s.ActiveSince u0) (hg : s.txGateOpen = true) :
    u0 + s.cfg.guardMult * s.pspace ≤ s.clock := by
  obtain ⟨hv, u, hu0, hu, hlast⟩ := h
  obtain hv' | hguard := s.txGateOpen_iff.mp hg
  · exact absurd (hv'.symm.trans hv) Bool.false_ne_true
  · rw [hlast, s.elapsed_mod hu] at hguard
    have hle := hguard.trans (Nat.mod_le _ _)
    omega

/-- A TX_FIRE that put bytes on the line noted activity (R147). -/
theorem State.sequencerTurn_activity_of_line {s : State} (h : s.sequencerTurn.line ≠ s.line) :
    s.sequencerTurn.block.actValid = true ∧ s.sequencerTurn.block.tLastAct = s.now := by
  obtain he | ⟨-, tr, n, f, -, ⟨bytes, he⟩ | he⟩ := s.sequencerTurn_cases <;> rw [he] at h ⊢
  · exact absurd rfl h
  · exact ⟨rfl, rfl⟩
  · exact absurd rfl h

/-- Settles O41: the first activity dates the last activity, every move but a reset keeps that, and an open gate measures
the guard from it. -/
theorem spacingGuarantee : Obligations.SpacingGuarantee := by
  rintro s0 s1 s2 m ms - hfirst hreset hrun hen
  have hstart : s1.ActiveSince s0.clock := by
    obtain ⟨rfl, ht, hline⟩ | ⟨ha, hbytes, ht⟩ := hfirst
    · have hcont := perform_continues ht
      cases ht
      obtain ⟨hv, hnow⟩ := State.sequencerTurn_activity_of_line hline
      exact State.activeSince_of_now (Nat.le_refl _) hcont hv hnow
    · have hcont := perform_continues ht
      cases (perform_of_accepted ha).symm.trans ht
      refine State.activeSince_of_now (Nat.le_refl _) hcont ?_ ?_ <;> rw [effectOf, State.poll_of_bytes hbytes] <;> rfl
  have hend : s2.ActiveSince s0.clock :=
    performAll_induction (fun m' hm' _ _ hu hv => hu.perform (fun he => hreset (he ▸ hm')) hv) hstart hrun
  exact hend.guard_passed (s2.txFireEnabled_iff.mp hen).2

/-! ## The bounded wait -/

theorem SameButSticky.refl (s : State) : SameButSticky s s := ⟨rfl, rfl, rfl⟩

theorem SameButSticky.trans {s t u : State} (h : SameButSticky s t) (h' : SameButSticky t u) : SameButSticky s u :=
  ⟨by rw [h'.block, h.block], h'.transport.trans h.transport, h'.line.trans h.line⟩

/-- Any moves but the sequencer's turn and reset leave a pending send and its block frozen (R38). -/
theorem performAll_sameButSticky {ms : List Move} {s t : State} (hb : s.block.txWait = true) (hf : .fire ∉ ms)
    (hr : .reset ∉ ms) (ht : performAll ms s = .next t) : SameButSticky s t :=
  performAll_induction (P := SameButSticky s)
    (fun _ hm _ _ hu hv => hu.trans ((perform_cases hv).sameButSticky_of_busy (hu.txWait.trans hb)
      (fun he => hf (he ▸ hm)) (fun he => hr (he ▸ hm)))) (.refl s) ht

/-- Elapsed time grows with the Clock, mod 2^TIME_W (R111). -/
theorem State.elapsed_advance {s t : State} (hcont : s.Continues t) {u : Nat} (hu : u < 2 ^ s.cfg.timeW) :
    t.elapsed u = (s.elapsed u + (t.clock - s.clock)) % 2 ^ s.cfg.timeW := by
  have hs := s.elapsed_eq_emod hu
  have ht := t.elapsed_eq_emod (hcont.cfg.symm ▸ hu)
  have hclock : (t.clock : Int) - u = (s.clock - u) + ((t.clock - s.clock : Nat) : Int) := by
    rw [Nat.cast_sub hcont.clock]
    ring
  rw [hclock, hcont.cfg, ← Int.emod_add_emod, ← hs, ← Nat.cast_add, ← Int.natCast_mod] at ht
  exact_mod_cast ht

/-- Settles O42: the block is frozen while the send waits, and elapsed time has grown by the guard without a wrap. -/
theorem boundedWait : Obligations.BoundedWait := by
  intro s t ms hinv hb hf hr hrun hguard hwrap
  have hsame := performAll_sameButSticky hb hf hr hrun
  have hcont := performAll_continues hrun
  have hspace : t.cfg.guardMult * t.pspace = s.cfg.guardMult * s.pspace := by
    rw [State.pspace, State.pspace, hsame.block, hcont.cfg]
  have hlast : t.block.tLastAct = s.block.tLastAct := by rw [hsame.block]
  rw [State.txFireEnabled_iff, State.txGateOpen_iff]
  refine ⟨hsame.txWait.trans hb, .inr ?_⟩
  rw [hspace, hlast, State.elapsed_advance hcont hinv.tLastActLt, Nat.mod_eq_of_lt hwrap]
  omega

/-! ## The end of a pending send -/

/-- Along an endless run the Clock does not go back. -/
theorem AgentRun.clock_le {moves : Nat → Move} {run : Nat → State} (h : AgentRun moves run) {n m : Nat} (hnm : n ≤ m) :
    (run n).clock ≤ (run m).clock :=
  monotone_nat_of_le_succ (fun k => (perform_continues (h k)).clock) hnm

/-- A move that ends a pending send is an enabled TX_FIRE, or a reset (R38). -/
theorem fire_or_reset_of_send_ends {m : Move} {s t : State} (ht : perform m s = .next t) (hb : s.block.txWait = true)
    (hq : t.block.txWait = false) : (m = .fire ∧ s.txFireEnabled = true) ∨ m = .reset := by
  by_contra hne
  rw [not_or, not_and] at hne
  obtain ⟨hfire, hreset⟩ := hne
  by_cases hm : m = .fire
  · subst hm
    cases ht
    rw [State.sequencerTurn_disabled (hfire rfl), hb] at hq
    cases hq
  · have hkeep := ((perform_cases ht).sameButSticky_of_busy hb hm hreset).txWait
    rw [hb, hq] at hkeep
    cases hkeep

/-- With the progress assumptions, a gate that is open once the Clock has passed some time, as long as the send waits, lets the
send end (R184). -/
theorem exists_send_ends {moves : Nat → Move} {run : Nat → State} {n guardEnd : Nat} (hrun : AgentRun moves run)
    (hclock : ClockUnbounded run) (hfair : FireWeaklyFair moves run)
    (hgate : ∀ m, n ≤ m → (∀ k, n ≤ k → k ≤ m → (run k).block.txWait = true) → guardEnd ≤ (run m).clock →
      (run m).txGateOpen = true) :
    ∃ m, n ≤ m ∧ (run m).block.txWait = false := by
  by_contra hnone
  have hwait : ∀ m, n ≤ m → (run m).block.txWait = true := by
    intro m hm
    rw [← Bool.not_eq_false]
    exact fun hq => hnone ⟨m, hm, hq⟩
  obtain ⟨a, ha⟩ := hclock guardEnd
  have henabled : ∀ m, max n a ≤ m → (run m).txFireEnabled = true := by
    intro m hm
    have hn : n ≤ m := (le_max_left n a).trans hm
    have hpast : guardEnd ≤ (run m).clock := ha.le.trans (hrun.clock_le ((le_max_right n a).trans hm))
    exact (run m).txFireEnabled_iff.mpr ⟨hwait m hn, hgate m hn (fun k hk _ => hwait k hk) hpast⟩
  obtain ⟨m, hm, hfire⟩ := hfair (max n a) henabled
  have hnext := hrun m
  rw [hfire] at hnext
  have hends : (run (m + 1)).block.txWait = false := by
    have hturn : (run m).sequencerTurn = run (m + 1) := Host.Outcome.next.inj hnext
    rw [← hturn, State.sequencerTurn_enabled (henabled m hm)]
    exact State.txFire_txWait _
  exact hnone ⟨m + 1, ((le_max_left n a).trans hm).trans (Nat.le_succ m), hends⟩

/-- Settles O43: the send ends, since it would otherwise be enabled for ever; the move before the first idle state ends it. -/
theorem pendingSendEndsByFireOrReset : Obligations.PendingSendEndsByFireOrReset := by
  intro moves run n hrun hclock hfair hgate hb
  have hends := exists_send_ends hrun hclock hfair hgate
  obtain ⟨hn, hq⟩ := Nat.find_spec hends
  obtain ⟨m, hm⟩ : ∃ m, Nat.find hends = m + 1 := by
    refine Nat.exists_eq_succ_of_ne_zero fun h0 => ?_
    obtain rfl : n = 0 := by omega
    rw [h0, hb] at hq
    cases hq
  have hwait : ∀ k, n ≤ k → k ≤ m → (run k).block.txWait = true := by
    intro k hk hkm
    rw [← Bool.not_eq_false]
    exact fun hqk => Nat.find_min hends (hm.symm ▸ Nat.lt_succ_of_le hkm) ⟨hk, hqk⟩
  rw [hm] at hn hq
  have hnm : n ≤ m := by
    by_contra hlt
    obtain rfl : n = m + 1 := by omega
    rw [hb] at hq
    cases hq
  exact ⟨m, hnm, hwait, hq, fire_or_reset_of_send_ends (hrun m) (hwait m hnm (Nat.le_refl m)) hq⟩

end Sys2Proof.Machine
end

section
/-! Two systems side by side. What a relation of two states must be kept by so that every move keeps it; then the two relations
of Safety.lean: bytes that no rule reads (10_state.md section 4), and the same system later (60_exceptions.md section 6). -/

namespace Sys2Proof.Machine

/-! ## Moves from two states -/

/-- From `s` and `t` every outcome of a move other than a Clock step leads to states related by `R`, and what decides between
the outcomes is the same in both. -/
structure MovesAlike (R : State → State → Prop) (s t : State) : Prop where
  cfg        : t.cfg = s.cfg
  txWait     : t.block.txWait = s.block.txWait
  bitrate    : t.block.bitrate = s.block.bitrate
  same       : R s t
  reject     : R s.reject t.reject
  read       : ∀ r, R { s with readData := s.regValue r } { t with readData := t.regValue r }
  clearFlags : ∀ v, R (s.onBlock (·.clearFlags v)) (t.onBlock (·.clearFlags v))
  setBitrate : ∀ v, R (s.onBlock fun b => { b with bitrate := v }) (t.onBlock fun b => { b with bitrate := v })
  effect     : ∀ i, R (effectOf i s) (effectOf i t)
  fire       : R s.sequencerTurn t.sequencerTurn
  reset      : R s.resetBlock t.resetBlock

section
variable {R : State → State → Prop} {s t : State}

theorem MovesAlike.exec (h : MovesAlike R s t) (i : Instr) : AnswersAgree R (exec i s) (exec i t) := by
  have hiff : rejects i t ↔ rejects i s := by rw [rejects, rejects, h.txWait, h.bitrate]
  by_cases hr : rejects i s
  · rw [exec_of_rejects hr, exec_of_rejects (hiff.mpr hr)]
    exact h.reject
  · rw [exec_of_not_rejects hr, exec_of_not_rejects (mt hiff.mp hr)]
    exact h.effect i

theorem MovesAlike.issue (h : MovesAlike R s t) (v : Word) : AnswersAgree R (issue v s) (issue v t) := by
  cases hv : decode v with
  | error e =>
    rw [issue_of_decode_error hv, issue_of_decode_error hv]
    exact h.reject
  | ok i => simpa only [Machine.issue, hv] using h.exec i

theorem MovesAlike.writeBitrate (h : MovesAlike R s t) (v : Word) : R (writeBitrate v s) (writeBitrate v t) := by
  unfold Machine.writeBitrate
  rw [h.txWait]
  split
  · exact h.reject
  · exact h.setBitrate v

theorem MovesAlike.writeReg (h : MovesAlike R s t) (r : Reg) (v : Word) :
    AnswersAgree R (writeReg r v s) (writeReg r v t) := by
  cases r with
  | cmd => exact h.issue v
  | status => exact h.clearFlags v
  | bitrate => exact h.writeBitrate v
  | _ => exact h.same

theorem MovesAlike.hostAccess (h : MovesAlike R s t) (a : Access) :
    AnswersAgree R (hostAccess a s) (hostAccess a t) := by
  unfold Machine.hostAccess
  rw [h.cfg]
  split_ifs
  · exact rfl
  · exact rfl
  · cases a with
    | read addr w => exact h.read _
    | write addr w v => exact h.writeReg _ v

/-- One inversion of `perform` for two states at once. -/
theorem MovesAlike.perform (h : MovesAlike R s t) {m : Move} (hm : ∀ n, m ≠ .clock n) :
    AnswersAgree R (perform m s) (perform m t) := by
  cases m with
  | host a => exact h.hostAccess a
  | secondHost a => exact rfl
  | clock n => exact absurd rfl (hm n)
  | fire => exact h.fire
  | reset => exact h.reset

end

/-- The draw of a read rests on the transport, READ_MAX and the free-value counter alone. -/
theorem State.transportRead_beside (s : State) :
    ∃ tr n, ∀ (b : Block) (c : Nat) (l : List Sent) (v : Word) (sc : List Move),
      ({ s with block := b, clock := c, line := l, readData := v, script := sc } : State).transportRead =
        (s.transportRead.1, { s with
          block := b, clock := c, line := l, readData := v, script := sc, transport := tr, draws := n }) := by
  cases h : s.transport.reads with
  | nil => exact ⟨s.transport, s.draws + 1, by simp [State.transportRead, h]⟩
  | cons a rest => exact ⟨{ s.transport with reads := rest }, s.draws, by simp [State.transportRead, h]⟩

/-- The draw of a write rests on the transport and the free-value counter alone. -/
theorem State.transportWrite_beside (s : State) (len : Nat) :
    ∃ tr n, ∀ (b : Block) (c : Nat) (l : List Sent) (v : Word) (sc : List Move),
      ({ s with block := b, clock := c, line := l, readData := v, script := sc } : State).transportWrite len =
        ((s.transportWrite len).1, { s with
          block := b, clock := c, line := l, readData := v, script := sc, transport := tr, draws := n }) := by
  cases h : s.transport.writes with
  | nil => exact ⟨s.transport, s.draws + 1, by simp [State.transportWrite, h]⟩
  | cons a rest => exact ⟨{ s.transport with writes := rest }, s.draws, by simp [State.transportWrite, h]⟩

/-- TX_FIRE rests on the payload, the transport, the free-value counter and the Clock's value at the call alone. -/
theorem State.txFire_beside (s : State) :
    ∃ k tr n, ∀ (b : Block) (c : Nat) (l : List Sent) (v : Word) (sc : List Move), b.payload = s.block.payload →
      ({ s with block := b, clock := c, line := l, readData := v, script := sc } : State).txFire =
        (({ s with
          block := b, clock := c, line := l, readData := v, script := sc, transport := tr, draws := n } :
            State).putOnLine k (wireFrame s.block.payload)).onBlock
              (·.sendDone k (wireFrame s.block.payload).length (c % 2 ^ s.cfg.timeW)) := by
  obtain ⟨tr, n, hwrite⟩ := s.transportWrite_beside (wireFrame s.block.payload).length
  refine ⟨(s.transportWrite (wireFrame s.block.payload).length).1, tr, n, fun b c l v sc hb => ?_⟩
  rw [State.txFire, hb, hwrite b c l v sc]
  rfl

/-! ## Blocks that differ in unread bytes -/

/-- `b` with other bytes in PEND, TXB and FOUT where no rule reads them (R30, R37). -/
inductive Block.SameRead (b : Block) : Block → Prop where
  | mk (pend txb fout : List Byte)
      (pendSize : pend.length = b.pend.length) (txbSize : txb.length = b.txb.length)
      (foutSize : fout.length = b.fout.length)
      (pending : pend.take b.pendLen = b.pend.take b.pendLen) (payload : txb.take b.txLen = b.txb.take b.txLen)
      (frame : fout.take b.frameLen = b.fout.take b.frameLen) :
      b.SameRead { b with pend := pend, txb := txb, fout := fout }

theorem Block.SameRead.refl (b : Block) : b.SameRead b := .mk b.pend b.txb b.fout rfl rfl rfl rfl rfl rfl

/-- Lists alike below `n` are alike below `n + 1` once both have `x` at `n`. -/
theorem take_set_congr {l l' : List Byte} {n : Nat} (hs : l'.length = l.length) (h : l'.take n = l.take n) (x : Byte) :
    (l'.set n x).take (n + 1) = (l.set n x).take (n + 1) := by
  by_cases hn : n < l.length
  · rw [List.take_add_one, List.take_add_one, List.take_set_of_le (Nat.le_refl n), List.take_set_of_le (Nat.le_refl n), h,
      List.getElem?_set_self (hs ▸ hn), List.getElem?_set_self hn]
  · have hle := Nat.le_of_not_lt hn
    rw [List.take_of_length_le hle, List.take_of_length_le (hs.trans_le hle)] at h
    rw [h]

theorem Block.SameRead.pushPend {b b' : Block} (h : b.SameRead b') (cap : Nat) (x : Byte) :
    (b.pushPend cap x).SameRead (b'.pushPend cap x) := by
  obtain ⟨pend, txb, fout, hps, hts, hfs, hpending, hpayload, hframe⟩ := h
  unfold Block.pushPend
  dsimp only
  split
  · exact .mk (pend.set b.pendLen x) txb fout (by simpa using hps) hts hfs (take_set_congr hps hpending x) hpayload hframe
  · exact .mk pend txb fout hps hts hfs hpending hpayload hframe

theorem Block.SameRead.foldl_pushPend {b b' : Block} (h : b.SameRead b') (cap : Nat) (new : List Byte) :
    (new.foldl (Block.pushPend cap) b).SameRead (new.foldl (Block.pushPend cap) b') := by
  induction new generalizing b b' with
  | nil => exact h
  | cons x xs ih => exact ih (h.pushPend cap x)

/-- An update of elements other than the buffers and their lengths. -/
theorem Block.SameRead.recordPoll {b b' : Block} (h : b.SameRead b') (n : Nat) (c : RxCode) :
    (b.recordPoll n c).SameRead (b'.recordPoll n c) := by
  obtain ⟨pend, txb, fout, hps, hts, hfs, hpending, hpayload, hframe⟩ := h
  exact .mk pend txb fout hps hts hfs hpending hpayload hframe

theorem Block.SameRead.markReceived {b b' : Block} (h : b.SameRead b') (now : Nat) :
    (b.markReceived now).SameRead (b'.markReceived now) := by
  obtain ⟨pend, txb, fout, hps, hts, hfs, hpending, hpayload, hframe⟩ := h
  exact .mk pend txb fout hps hts hfs hpending hpayload hframe

theorem Block.SameRead.raise {b b' : Block} (h : b.SameRead b') (f : Flag) : (b.raise f).SameRead (b'.raise f) := by
  obtain ⟨pend, txb, fout, hps, hts, hfs, hpending, hpayload, hframe⟩ := h
  exact .mk pend txb fout hps hts hfs hpending hpayload hframe

theorem Block.SameRead.frameValid {b b' : Block} (h : b.SameRead b') : b'.frameValid = b.frameValid := by
  cases h
  rfl

theorem Block.SameRead.raiseIf {b b' : Block} (h : b.SameRead b') (c : Bool) (f : Flag) :
    (b.raiseIf c f).SameRead (b'.raiseIf c f) := by
  cases c with
  | false => exact h
  | true => exact h.raise f

/-- The bytes of a latched frame are the same, those beyond keep their place (R117). -/
theorem Block.SameRead.latchFrame {b b' : Block} (h : b.SameRead b') (f : List Byte) :
    (b.latchFrame f).SameRead (b'.latchFrame f) := by
  obtain ⟨pend, txb, fout, hps, hts, hfs, hpending, hpayload, hframe⟩ := h
  refine .mk pend txb (f ++ fout.drop f.length) hps hts ?_ hpending hpayload ?_
  · simp [hfs]
  · simp

/-- A candidate is judged by its bytes, which are read (R116, R117). -/
theorem Block.SameRead.judge {b b' : Block} (h : b.SameRead b') (c : List Byte) (lost : Bool) :
    (b.judge c lost).SameRead (b'.judge c lost) := by
  cases lost with
  | true => exact h.recordPoll 0 .discardOvf
  | false =>
    by_cases h4 : 4 ≤ c.length
    · by_cases hc : CrcMatches c
      · rw [Block.judge_match h4 hc, Block.judge_match h4 hc, h.frameValid]
        exact ((h.raiseIf b.frameValid .frameOvr).latchFrame _).recordPoll 0 .frame
      · rw [Block.judge_mismatch h4 hc, Block.judge_mismatch h4 hc]
        exact (h.raise .rxCrc).recordPoll 0 .discardCrc
    · rw [Block.judge_short (by omega), Block.judge_short (by omega)]
      exact (h.raise .rxShort).recordPoll 0 .discardShort

theorem Block.SameRead.pushTx {b b' : Block} (h : b.SameRead b') (cap : Nat) (x : Byte) :
    (b.pushTx cap x).SameRead (b'.pushTx cap x) := by
  obtain ⟨pend, txb, fout, hps, hts, hfs, hpending, hpayload, hframe⟩ := h
  unfold Block.pushTx
  dsimp only
  split
  · exact .mk pend (txb.set b.txLen x) fout hps (by simpa using hts) hfs hpending (take_set_congr hts hpayload x) hframe
  · exact .mk pend txb fout hps hts hfs hpending hpayload hframe

theorem Block.SameRead.sendDone {b b' : Block} (h : b.SameRead b') (k len now : Nat) :
    (b.sendDone k len now).SameRead (b'.sendDone k len now) := by
  obtain ⟨pend, txb, fout, hps, hts, hfs, hpending, hpayload, hframe⟩ := h
  unfold Block.sendDone
  dsimp only
  split
  · exact .mk pend txb fout hps hts hfs hpending rfl hframe
  · exact .mk pend txb fout hps hts hfs hpending rfl hframe

theorem getD_congr_of_take {l l' : List Byte} {n k : Nat} (h : l'.take n = l.take n) (hk : k < n) :
    l'.getD k 0#8 = l.getD k 0#8 := by
  rw [List.getD_eq_getElem?_getD, List.getD_eq_getElem?_getD, ← List.getElem?_take_of_lt hk, h,
    List.getElem?_take_of_lt hk]

/-- The frame window ends at the frame's length (R30). -/
theorem Block.SameRead.frameByte {b b' : Block} (h : b.SameRead b') (k : Nat) : b'.frameByte k = b.frameByte k := by
  obtain ⟨pend, txb, fout, -, -, -, -, -, hframe⟩ := h
  unfold Block.frameByte
  dsimp only
  split
  case isTrue hk => exact getD_congr_of_take hframe hk
  case isFalse => rfl

theorem Block.SameRead.frameWord {b b' : Block} (h : b.SameRead b') (i : Nat) : b'.frameWord i = b.frameWord i := by
  rw [Block.frameWord, Block.frameWord, h.frameByte, h.frameByte, h.frameByte, h.frameByte]

/-! ## Unread bytes are never observed -/

/-- The two states differ in the block alone, in unread bytes. -/
theorem sameButUnread_iff {s t : State} :
    SameButUnread s t ↔ ∃ b, s.block.SameRead b ∧ t = { s with block := b } := by
  constructor
  · rintro ⟨hrest, ⟨hps, hts, hfs⟩, hframe, hpending, hpayload⟩
    rw [hrest] at hpending hpayload
    exact ⟨_, .mk _ _ _ hps hts hfs hpending hpayload hframe, hrest⟩
  · rintro ⟨b, ⟨pend, txb, fout, hps, hts, hfs, hpending, hpayload, hframe⟩, rfl⟩
    exact ⟨rfl, ⟨hps, hts, hfs⟩, hframe, hpending, hpayload⟩

/-- The same state around two blocks that differ in unread bytes. -/
theorem SameButUnread.of_blocks {b b' : Block} (h : b.SameRead b') (s : State) :
    SameButUnread { s with block := b } { s with block := b' } := sameButUnread_iff.mpr ⟨b', h, rfl⟩

theorem regValue_sameRead {s : State} {b : Block} (h : s.block.SameRead b) (r : Reg) :
    ({ s with block := b } : State).regValue r = s.regValue r := by
  cases r with
  | frameData i => exact h.frameWord i
  | _ => cases h; rfl

/-- A poll reads the pending list, its length and whether bytes were lost (R113 to R118). -/
theorem poll_sameRead {s : State} {b : Block} (h : s.block.SameRead b) :
    SameButUnread s.poll ({ s with block := b } : State).poll := by
  obtain ⟨tr, n, hread⟩ := s.transportRead_beside
  have hs : s.transportRead = (s.transportRead.1, { s with transport := tr, draws := n }) :=
    hread s.block s.clock s.line s.readData s.script
  have ht : ({ s with block := b } : State).transportRead =
      (s.transportRead.1, { s with block := b, transport := tr, draws := n }) :=
    hread b s.clock s.line s.readData s.script
  by_cases hn : s.transportRead.1 = []
  · rw [State.poll_of_noBytes hn, State.poll_of_noBytes ((congrArg Prod.fst ht).trans hn), ht, hs]
    refine .of_blocks ?_ ({ s with transport := tr, draws := n } : State)
    have hjudge : (s.block.emptyPend.judge s.block.pending s.block.pendOvf).SameRead
        (b.emptyPend.judge b.pending b.pendOvf) := by
      obtain ⟨pend, txb, fout, hps, hts, hfs, hpending, hpayload, hframe⟩ := h
      have hempty : s.block.emptyPend.SameRead
          ({ s.block with pend := pend, txb := txb, fout := fout } : Block).emptyPend :=
        .mk pend txb fout hps hts hfs rfl hpayload hframe
      rw [show ({ s.block with pend := pend, txb := txb, fout := fout } : Block).pending = s.block.pending from hpending]
      exact hempty.judge _ _
    have hlen : b.pendLen = s.block.pendLen := by cases h; rfl
    have helapsed : ({ s with block := b } : State).elapsed b.tLastRx = s.elapsed s.block.tLastRx := by cases h; rfl
    have hspace : ({ s with block := b } : State).pspace = s.pspace := by cases h; rfl
    dsimp only at hlen helapsed hspace ⊢
    rw [hlen, helapsed, hspace]
    split_ifs
    · exact h.recordPoll 0 .idle
    · exact h.recordPoll 0 .waiting
    · exact hjudge
  · rw [State.poll_of_bytes hn, State.poll_of_bytes (fun he => hn ((congrArg Prod.fst ht).symm.trans he)), ht, hs]
    exact .of_blocks (((h.foldl_pushPend _ _).markReceived _).recordPoll _ _)
      ({ s with transport := tr, draws := n } : State)

/-- TX_FIRE reads the payload (R147). -/
theorem sequencerTurn_sameRead {s : State} {b : Block} (h : s.block.SameRead b) :
    SameButUnread s.sequencerTurn ({ s with block := b } : State).sequencerTurn := by
  have hen : ({ s with block := b } : State).txFireEnabled = s.txFireEnabled := by cases h; rfl
  have hpay : b.payload = s.block.payload := by
    obtain ⟨pend, txb, fout, hps, hts, hfs, hpending, hpayload, hframe⟩ := h
    exact hpayload
  obtain ⟨k, tr, n, hfire⟩ := s.txFire_beside
  have hs := hfire s.block s.clock s.line s.readData s.script rfl
  have ht := hfire b s.clock s.line s.readData s.script hpay
  by_cases he : s.txFireEnabled = true
  · rw [State.sequencerTurn_enabled he, State.sequencerTurn_enabled (hen.trans he)]
    refine (congrArg₂ SameButUnread hs ht).mpr ?_
    unfold State.putOnLine
    split
    · exact .of_blocks (h.sendDone k _ _) { s with transport := tr, draws := n, line := _ }
    · exact .of_blocks (h.sendDone k _ _) { s with transport := tr, draws := n }
  · rw [State.sequencerTurn_disabled he, State.sequencerTurn_disabled (fun h' => he (hen.symm.trans h'))]
    exact .of_blocks h s

/-- A command reads no byte beyond a length. -/
theorem effectOf_sameRead {s : State} {b : Block} (h : s.block.SameRead b) (i : Instr) :
    SameButUnread (effectOf i s) (effectOf i { s with block := b }) := by
  cases i with
  | rxPoll => exact poll_sameRead h
  | txPush x => exact .of_blocks (h.pushTx _ x) s
  | frameAck =>
    obtain ⟨pend, txb, fout, hps, hts, hfs, hpending, hpayload, hframe⟩ := h
    exact ⟨rfl, ⟨hps, hts, hfs⟩, rfl, hpending, hpayload⟩
  | txClear =>
    obtain ⟨pend, txb, fout, hps, hts, hfs, hpending, hpayload, hframe⟩ := h
    exact ⟨rfl, ⟨hps, hts, hfs⟩, hframe, hpending, rfl⟩
  | _ =>
    obtain ⟨pend, txb, fout, hps, hts, hfs, hpending, hpayload, hframe⟩ := h
    exact ⟨rfl, ⟨hps, hts, hfs⟩, hframe, hpending, hpayload⟩

theorem SameButUnread.movesAlike {s t : State} (h : SameButUnread s t) : MovesAlike SameButUnread s t := by
  obtain ⟨b, hb, rfl⟩ := sameButUnread_iff.mp h
  constructor
  case cfg => rfl
  case txWait => cases hb; rfl
  case bitrate => cases hb; rfl
  case same => exact h
  case reject => exact .of_blocks (hb.raise .cmdErr) s
  case read =>
    intro r
    rw [regValue_sameRead hb]
    exact .of_blocks hb { s with readData := s.regValue r }
  case clearFlags =>
    obtain ⟨pend, txb, fout, hps, hts, hfs, hpending, hpayload, hframe⟩ := hb
    exact fun v => ⟨rfl, ⟨hps, hts, hfs⟩, hframe, hpending, hpayload⟩
  case setBitrate =>
    obtain ⟨pend, txb, fout, hps, hts, hfs, hpending, hpayload, hframe⟩ := hb
    exact fun v => ⟨rfl, ⟨hps, hts, hfs⟩, hframe, hpending, hpayload⟩
  case effect => exact effectOf_sameRead hb
  case fire => exact sequencerTurn_sameRead hb
  case reset => exact .of_blocks (.refl _) s

theorem SameButUnread.clockStep {s t : State} (h : SameButUnread s t) (n : Nat) :
    AnswersAgree SameButUnread (clockStep n s) (clockStep n t) := by
  obtain ⟨b, hb, rfl⟩ := sameButUnread_iff.mp h
  unfold Machine.clockStep
  dsimp only
  split
  · exact rfl
  · exact .of_blocks hb { s with clock := n }

theorem SameButUnread.perform {s t : State} (h : SameButUnread s t) (m : Move) :
    AnswersAgree SameButUnread (perform m s) (perform m t) := by
  cases m with
  | clock n => exact h.clockStep n
  | _ => exact h.movesAlike.perform nofun

/-- The next move is the same, and so is what its taking leaves. -/
theorem SameButUnread.taken {s t : State} (h : SameButUnread s t) :
    t.nextMove = s.nextMove ∧ SameButUnread s.taken t.taken := by
  obtain ⟨b, hb, rfl⟩ := sameButUnread_iff.mp h
  refine ⟨rfl, ?_⟩
  unfold State.taken
  dsimp only
  split
  case h_1 m rest hs => exact .of_blocks hb { s with script := rest }
  case h_2 hs => exact .of_blocks hb { s with draws := s.draws + 1 }

theorem AnswersAgree.mono {r r' : State → State → Prop} (h : ∀ s t, r s t → r' s t) {a b : Answer}
    (hab : AnswersAgree r a b) : AnswersAgree r' a b := by
  cases a with
  | next s =>
    cases b with
    | next t => exact h s t hab
    | fault r => cases hab
    | refused r => cases hab
  | fault r => cases b <;> exact hab
  | refused r => cases b <;> exact hab

/-- Settles O58: a step reads no such byte, and what the host and the line have is equal in states that differ there. -/
theorem unreadBytesNeverObserved : Obligations.UnreadBytesNeverObserved := by
  intro s t _ h
  obtain ⟨hmove, htaken⟩ := h.taken
  rw [step_eq, step_eq, hmove]
  refine AnswersAgree.mono (fun s' t' h' => ⟨h', ?_, ?_⟩) (htaken.perform s.nextMove) <;> rw [h'.rest]

end Sys2Proof.Machine
end

section
/-! The same system later (60_exceptions.md section 6). Updates commute with a change of the timestamps, and what a rule computes from
a shifted timestamp on a shifted Clock is the same. -/

namespace Sys2Proof.Machine

/-! ## Updates that commute with a change of the timestamps -/

/-- The block with other timestamps. -/
def Block.withTimes (rx act : Nat) (b : Block) : Block := { b with tLastRx := rx, tLastAct := act }

theorem Block.pushPend_withTimes (rx act cap : Nat) (x : Byte) (b : Block) :
    (b.withTimes rx act).pushPend cap x = (b.pushPend cap x).withTimes rx act := by
  rw [Block.pushPend, Block.pushPend, apply_ite (Block.withTimes rx act)]
  rfl

/-- Received bytes set both timestamps, whatever they were (R114). -/
theorem Block.accumulate_withTimes (rx act cap now : Nat) (new : List Byte) (now' : Nat) (b : Block) :
    (b.withTimes rx act).accumulate cap now' new = (b.accumulate cap now new).withTimes now' now' := by
  have hfold : new.foldl (Block.pushPend cap) (b.withTimes rx act) =
      (new.foldl (Block.pushPend cap) b).withTimes rx act :=
    List.foldl_hom (Block.withTimes rx act) fun b x => b.pushPend_withTimes rx act cap x
  rw [Block.accumulate, hfold]
  rfl

theorem Block.judge_withTimes (rx act : Nat) (c : List Byte) (lost : Bool) (b : Block) :
    (b.withTimes rx act).judge c lost = (b.judge c lost).withTimes rx act := by
  have hraiseIf : (b.withTimes rx act).raiseIf b.frameValid .frameOvr =
      (b.raiseIf b.frameValid .frameOvr).withTimes rx act := by
    cases b.frameValid <;> rfl
  have hvalid : (b.withTimes rx act).frameValid = b.frameValid := rfl
  simp only [Block.judge, apply_ite (Block.withTimes rx act), hvalid, hraiseIf]
  rfl

theorem Block.pushTx_withTimes (rx act cap : Nat) (x : Byte) (b : Block) :
    (b.withTimes rx act).pushTx cap x = (b.pushTx cap x).withTimes rx act := by
  rw [Block.pushTx, Block.pushTx, apply_ite (Block.withTimes rx act)]
  rfl

/-! ## The state made later -/

/-- The state `d` microseconds later, with the timestamps `rx` and `act`. -/
def State.later (d rx act : Nat) (s : State) : State :=
  { s with
    block := s.block.withTimes rx act
    clock := s.clock + d
    line := s.line.map fun e => { e with time := e.time + d }
    script := s.script.map (shiftMove d) }

/-- The timestamps `rx` and `act` are those of `s`, `d` later, where a rule may still read them (R183). -/
structure TimesShifted (d rx act : Nat) (s : State) : Prop where
  rx  : s.block.pendLen ≠ 0 → rx = (s.block.tLastRx + d) % 2 ^ s.cfg.timeW
  act : s.block.actValid = true → act = (s.block.tLastAct + d) % 2 ^ s.cfg.timeW

theorem shiftedBy_iff {d : Nat} {s t : State} :
    ShiftedBy d s t ↔ ∃ rx act, TimesShifted d rx act s ∧ t = s.later d rx act := by
  constructor
  · rintro ⟨hrest, hrx, hact⟩
    exact ⟨_, _, ⟨hrx, hact⟩, hrest⟩
  · rintro ⟨rx, act, ⟨hrx, hact⟩, rfl⟩
    exact ⟨rfl, hrx, hact⟩

theorem TimesShifted.shiftedBy {d rx act : Nat} {s : State} (h : TimesShifted d rx act s) :
    ShiftedBy d s (s.later d rx act) := shiftedBy_iff.mpr ⟨rx, act, h, rfl⟩

theorem State.now_later (d rx act : Nat) (s : State) : (s.later d rx act).now = (s.now + d) % 2 ^ s.cfg.timeW :=
  (Nat.mod_add_mod _ _ _).symm

/-- Elapsed time is the same `d` later (R183). -/
theorem State.elapsed_later (d rx act : Nat) (s : State) {u : Nat} (hu : u < 2 ^ s.cfg.timeW) :
    (s.later d rx act).elapsed ((u + d) % 2 ^ s.cfg.timeW) = s.elapsed u := by
  have hlater := (s.later d rx act).elapsed_eq_emod (Nat.mod_lt (u + d) (Nat.two_pow_pos s.cfg.timeW))
  have hshift : ((s.later d rx act).clock : Int) - ((u + d : Nat) : Int) = s.clock - u := by
    rw [State.later]
    push_cast
    ring
  rw [Int.natCast_mod] at hlater
  rw [show (s.later d rx act).cfg = s.cfg from rfl, Int.sub_emod_emod, hshift, ← s.elapsed_eq_emod hu] at hlater
  exact_mod_cast hlater

/-- The gate is as it was `d` earlier (R140). -/
theorem State.txFireEnabled_later {d rx act : Nat} {s : State} (hinv : s.Inv) (h : TimesShifted d rx act s) :
    (s.later d rx act).txFireEnabled = s.txFireEnabled := by
  have hgate : (s.later d rx act).txGateOpen = true ↔ s.txGateOpen = true := by
    rw [State.txGateOpen_iff, State.txGateOpen_iff]
    change s.block.actValid = false ∨ s.cfg.guardMult * s.pspace ≤ (s.later d rx act).elapsed act ↔ _
    cases hv : s.block.actValid with
    | false => simp
    | true => rw [h.act hv, s.elapsed_later d _ _ hinv.tLastActLt]
  rw [Bool.eq_iff_iff, State.txFireEnabled_iff, State.txFireEnabled_iff, hgate]
  rfl

/-- The state made later around another block. -/
theorem shiftedBy_of_block {d rx act : Nat} {s : State} {b b' : Block} (hb : b' = b.withTimes rx act)
    (h : TimesShifted d rx act { s with block := b }) (rx₀ act₀ : Nat) :
    ShiftedBy d { s with block := b } { s.later d rx₀ act₀ with block := b' } := by
  subst hb
  exact h.shiftedBy

/-- A poll of the state made later: new bytes are dated by its Clock, and silence is judged by elapsed time (R112, R114). -/
theorem poll_shifted {d rx act : Nat} {s : State} (hinv : s.Inv) (h : TimesShifted d rx act s) :
    ShiftedBy d s.poll (s.later d rx act).poll := by
  obtain ⟨tr, n, hread⟩ := s.transportRead_beside
  have hs : s.transportRead = (s.transportRead.1, { s with transport := tr, draws := n }) :=
    hread s.block s.clock s.line s.readData s.script
  have ht : (s.later d rx act).transportRead =
      (s.transportRead.1, ({ s with transport := tr, draws := n } : State).later d rx act) :=
    hread (s.block.withTimes rx act) _ _ s.readData _
  by_cases hn : s.transportRead.1 = []
  · have hn' : (s.later d rx act).transportRead.1 = [] := (congrArg Prod.fst ht).trans hn
    rw [State.poll_of_noBytes hn, State.poll_of_noBytes hn', ht, hs]
    refine shiftedBy_of_block (s := { s with transport := tr, draws := n }) (rx := rx) (act := act) ?block ?times rx act
    case block =>
      by_cases h0 : s.block.pendLen = 0
      · have h0' : (s.later d rx act).block.pendLen = 0 := h0
        rw [if_pos h0, if_pos h0']
        rfl
      · have h0' : (s.later d rx act).block.pendLen ≠ 0 := h0
        have helapsed : (s.later d rx act).elapsed rx = s.elapsed s.block.tLastRx := by
          rw [h.rx h0, s.elapsed_later d _ _ hinv.tLastRxLt]
        rw [if_neg h0, if_neg h0', apply_ite (Block.withTimes rx act), ← Block.judge_withTimes, ← helapsed]
        rfl
    case times =>
      split_ifs
      · exact ⟨h.rx, h.act⟩
      · exact ⟨h.rx, h.act⟩
      · rw [Block.judge_frame]
        exact ⟨fun hne => absurd rfl hne, h.act⟩
  · have hn' : (s.later d rx act).transportRead.1 ≠ [] := fun he => hn ((congrArg Prod.fst ht).symm.trans he)
    rw [State.poll_of_bytes hn, State.poll_of_bytes hn', ht, hs, State.now_later]
    exact shiftedBy_of_block (s := { s with transport := tr, draws := n }) (Block.accumulate_withTimes rx act _ _ _ _ _)
      ⟨fun _ => rfl, fun _ => rfl⟩ rx act

/-- TX_FIRE of the state made later: what is on the line is dated by its Clock (R147). -/
theorem sequencerTurn_shifted {d rx act : Nat} {s : State} (hinv : s.Inv) (h : TimesShifted d rx act s) :
    ShiftedBy d s.sequencerTurn (s.later d rx act).sequencerTurn := by
  have hen := State.txFireEnabled_later hinv h
  obtain ⟨k, tr, n, hfire⟩ := s.txFire_beside
  have hs := hfire s.block s.clock s.line s.readData s.script rfl
  have ht := hfire (s.block.withTimes rx act) (s.clock + d)
    (s.line.map fun e => { e with time := e.time + d }) s.readData (s.script.map (shiftMove d)) rfl
  by_cases he : s.txFireEnabled = true
  · rw [State.sequencerTurn_enabled he, State.sequencerTurn_enabled (hen.trans he)]
    refine (congrArg₂ (ShiftedBy d) hs ht).mpr ?_
    by_cases hk : 1 ≤ k
    · simp only [State.putOnLine, if_pos hk, State.onBlock, Block.sendDone_of_taken hk]
      refine shiftedBy_iff.mpr ⟨rx, (s.now + d) % 2 ^ s.cfg.timeW, ⟨h.rx, fun _ => rfl⟩, ?_⟩
      simp [State.later, Block.withTimes, State.now]
    · simp only [State.putOnLine, if_neg hk, State.onBlock, Block.sendDone]
      exact shiftedBy_iff.mpr ⟨rx, act, ⟨h.rx, h.act⟩, rfl⟩
  · rw [State.sequencerTurn_disabled he, State.sequencerTurn_disabled (fun h' => he (hen.symm.trans h'))]
    exact h.shiftedBy

/-- A reset at the later time counts as activity then, or not at all (R190). -/
theorem resetBlock_shifted {d rx act : Nat} (s : State) : ShiftedBy d s.resetBlock (s.later d rx act).resetBlock := by
  refine ⟨?_, fun hne => absurd rfl hne, fun hv => ?_⟩
  · simp only [State.resetBlock, State.later, Block.afterReset]
  · rw [State.resetBlock_block, Block.afterReset_actValid, decide_eq_true_eq] at hv
    rw [State.resetBlock_block, State.resetBlock_block, Block.afterReset_tLastAct, Block.afterReset_tLastAct, if_pos hv,
      State.now_later]
    exact if_pos hv

theorem effectOf_shifted {d rx act : Nat} {s : State} (hinv : s.Inv) (h : TimesShifted d rx act s) (i : Instr) :
    ShiftedBy d (effectOf i s) (effectOf i (s.later d rx act)) := by
  cases i with
  | rxPoll => exact poll_shifted hinv h
  | txPush x =>
    refine shiftedBy_of_block (Block.pushTx_withTimes rx act s.cfg.txCap x s.block) ?_ rx act
    rw [Block.pushTx_frame]
    exact ⟨h.rx, h.act⟩
  | _ => exact ⟨rfl, h.rx, h.act⟩

theorem movesAlike_shifted {d rx act : Nat} {s : State} (hinv : s.Inv) (h : TimesShifted d rx act s) :
    MovesAlike (ShiftedBy d) s (s.later d rx act) := by
  constructor
  case cfg => rfl
  case txWait => rfl
  case bitrate => rfl
  case same => exact h.shiftedBy
  case reject => exact ⟨rfl, h.rx, h.act⟩
  case read => exact fun r => ⟨by cases r <;> rfl, h.rx, h.act⟩
  case clearFlags => exact fun v => ⟨rfl, h.rx, h.act⟩
  case setBitrate => exact fun v => ⟨rfl, h.rx, h.act⟩
  case effect => exact effectOf_shifted hinv h
  case fire => exact sequencerTurn_shifted hinv h
  case reset => exact resetBlock_shifted s

/-- Two answers that agree are both next states, or neither is. -/
theorem AnswersAgree.next_iff {R : State → State → Prop} {a b : Answer} (h : AnswersAgree R a b) :
    (∀ s, a = .next s → ∃ t, b = .next t ∧ R s t) ∧ ((∃ t, b = .next t) → ∃ s, a = .next s) := by
  cases a with
  | next s =>
    cases b with
    | next t =>
      refine ⟨fun s' hs' => ⟨t, rfl, ?_⟩, fun _ => ⟨s, rfl⟩⟩
      cases hs'
      exact h
    | fault r => cases h
    | refused r => cases h
  | fault r => exact ⟨nofun, fun ⟨t, ht⟩ => by subst ht; cases h⟩
  | refused r => exact ⟨nofun, fun ⟨t, ht⟩ => by subst ht; cases h⟩

/-- A Clock step to the later time is a step back where the earlier one is. -/
theorem clockStep_shifted {d rx act : Nat} {s : State} (h : TimesShifted d rx act s) (n : Nat) :
    (∀ s', clockStep n s = .next s' → ∃ t', clockStep (n + d) (s.later d rx act) = .next t' ∧ ShiftedBy d s' t') ∧
      ((∃ t', clockStep (n + d) (s.later d rx act) = .next t') → ∃ s', clockStep n s = .next s') := by
  have hback : n + d < (s.later d rx act).clock ↔ n < s.clock := Nat.add_lt_add_iff_right
  unfold clockStep
  simp only [hback]
  split
  · exact ⟨nofun, nofun⟩
  · refine ⟨?_, fun _ => ⟨_, rfl⟩⟩
    intro s' hs'
    cases hs'
    exact ⟨_, rfl, rfl, h.rx, h.act⟩

/-- Only a Clock step names a time. -/
theorem shiftMove_of_ne_clock {m : Move} (hm : ∀ n, m ≠ .clock n) (d : Nat) : shiftMove d m = m := by
  cases m with
  | clock n => exact absurd rfl (hm n)
  | _ => rfl

/-- Settles O26: each outcome of a move looks at elapsed times only, and a Clock step at the order of two times. -/
theorem onlyTimeDifferencesMatter : Obligations.OnlyTimeDifferencesMatter := by
  intro d m s t hinv h
  obtain ⟨rx, act, htimes, rfl⟩ := shiftedBy_iff.mp h
  obtain ⟨n, rfl⟩ | hm := em (∃ n, m = .clock n)
  · exact clockStep_shifted htimes n
  · have hm : ∀ n, m ≠ .clock n := fun n he => hm ⟨n, he⟩
    rw [shiftMove_of_ne_clock hm]
    exact ((movesAlike_shifted hinv htimes).perform hm).next_iff

end Sys2Proof.Machine
end

section
/-! Bytes delivered by polls. What has come in after any deliveries that no silence has interrupted, how silence then judges it
(41_rx_boundary.md), and the round trip from a sender (95_test_vectors.md). -/

namespace Sys2Proof.Machine

open Sys2Proof.Config

/-! ## One poll at a time -/

/-- A Clock step and an accepted poll (R78, R113). -/
theorem performAll_pollAt {p : Params} {s : State} {n : Nat} (hp : s.cfg = p) (hn : s.clock ≤ n)
    (hi : s.block.txWait = false) (hb : s.block.bitrate ≠ 0#32) :
    performAll (pollAt p n) s = .next ({ s with clock := n } : State).poll := by
  subst hp
  have hpoll : perform (issueMove s.cfg .rxPoll) { s with clock := n } = .next ({ s with clock := n } : State).poll :=
    (perform_cmdWrite_of_decode (decode_encode .rxPoll) { s with clock := n }).trans (exec_rxPoll_of_ready hi hb)
  exact performAll_cons_eq_next.mpr ⟨_, perform_clock hn, performAll_cons_eq_next.mpr ⟨_, hpoll, rfl⟩⟩

/-- The state after the bytes `got` have come in since PEND was empty in `s0`, with no silence found since; `seen` is when bytes
last came. -/
structure Delivered (s0 : State) (got : List Byte) (seen : Option Nat) (s : State) : Prop where
  inv     : s.Inv
  cfg     : s.cfg = s0.cfg
  idle    : s.block.txWait = false
  bitrate : s.block.bitrate = s0.block.bitrate
  pending : s.block.pending = got.take s.cfg.pendingCap
  pendLen : s.block.pendLen = min got.length s.cfg.pendingCap
  pendOvf : s.block.pendOvf = decide (s.cfg.pendingCap < got.length)
  frame   : s.block.fout = s0.block.fout ∧ s.block.frameLen = s0.block.frameLen ∧
    s.block.frameValid = s0.block.frameValid
  lastRx  : got ≠ [] → ∃ u, seen = some u ∧ u ≤ s.clock ∧ s.block.tLastRx = u % 2 ^ s.cfg.timeW

/-- With PEND empty nothing has come in: an overflowed candidate would fill PEND (R116). -/
theorem Delivered.start {s : State} (hinv : s.Inv) (hi : s.block.txWait = false) (h0 : s.block.pendLen = 0) :
    Delivered s [] none s := by
  have hovf : s.block.pendOvf = false := by
    rw [← Bool.not_eq_true]
    intro ho
    have := hinv.ovfFull ho
    have := (pendingCap_bounds hinv.legal).1
    omega
  refine ⟨hinv, rfl, hi, rfl, ?_, ?_, ?_, ⟨rfl, rfl, rfl⟩, fun hne => absurd rfl hne⟩
  · rw [Block.pending, h0, List.take_zero, List.take_nil]
  · rw [h0, List.length_nil, Nat.zero_min]
  · rw [hovf, List.length_nil, decide_eq_false (Nat.not_lt_zero _)]

/-- What is pending is empty exactly where nothing has come in. -/
theorem Delivered.pendLen_eq_zero_iff {s0 s : State} {got : List Byte} {seen : Option Nat}
    (h : Delivered s0 got seen s) : s.block.pendLen = 0 ↔ got = [] := by
  have := (pendingCap_bounds h.inv.legal).1
  rw [h.pendLen, ← List.length_eq_zero_iff]
  omega

theorem Delivered.pspace {s0 s : State} {got : List Byte} {seen : Option Nat} (h : Delivered s0 got seen s) :
    s.pspace = s0.pspace := by
  rw [State.pspace, State.pspace, h.cfg, h.bitrate]

/-- The Clock alone changes nothing that has come in. -/
theorem Delivered.clock {s0 s : State} {got : List Byte} {seen : Option Nat} (h : Delivered s0 got seen s) {n : Nat}
    (hn : s.clock ≤ n) : Delivered s0 got seen { s with clock := n } :=
  { h with
    inv := h.inv.perform (perform_clock hn)
    lastRx := fun hne =>
      let ⟨u, hu, hle, hlast⟩ := h.lastRx hne
      ⟨u, hu, hle.trans hn, hlast⟩ }

/-- The silence a poll finds is counted from the last bytes (R111, R112). -/
theorem Delivered.elapsed {s0 s : State} {got : List Byte} {seen : Option Nat} (h : Delivered s0 got seen s)
    (hne : got ≠ []) :
    ∃ u, seen = some u ∧ s.elapsed s.block.tLastRx = (s.clock - u) % 2 ^ s0.cfg.timeW := by
  obtain ⟨u, hu, hle, hlast⟩ := h.lastRx hne
  exact ⟨u, hu, by rw [hlast, s.elapsed_mod hle, h.cfg]⟩

/-- A poll that gets bytes adds them to what has come in (R114). -/
theorem Delivered.poll_bytes {s0 s : State} {got new : List Byte} {seen : Option Nat} {rest : List (List Byte)}
    (h : Delivered s0 got seen s) (hb : s.block.bitrate ≠ 0#32) (hne : new ≠ [])
    (hread : s.transportRead = (new, { s with transport := { s.transport with reads := rest } })) :
    Delivered s0 (got ++ new) (some s.clock) s.poll := by
  obtain ⟨t, hexec, hpending, -, ht⟩ := pollAppendsBytes s new h.inv h.idle hb (congrArg Prod.fst hread) hne
  obtain rfl : s.poll = t := Host.Outcome.next.inj ((exec_rxPoll_of_ready h.idle hb).symm.trans hexec)
  have hcfg : s.poll.cfg = s.cfg := by rw [ht, hread]
  constructor
  case inv => exact h.inv.poll
  case cfg => exact hcfg.trans h.cfg
  case idle => rw [State.poll_txWait, h.idle]
  case bitrate => exact s.poll_sameOutsideReceive.bitrate.trans h.bitrate
  case pending =>
    rw [hpending, h.pending, hcfg, take_append_of_take]
  case pendLen =>
    rw [ht, hread]
    dsimp only
    rw [h.pendLen, List.length_append]
    omega
  case pendOvf =>
    rw [ht, hread]
    dsimp only
    rw [h.pendOvf, h.pendLen, List.length_append, ← Bool.decide_or, decide_eq_decide]
    omega
  case frame =>
    rw [ht]
    exact h.frame
  case lastRx =>
    intro _
    rw [ht, hread]
    exact ⟨s.clock, rfl, Nat.le_refl _, rfl⟩

/-- A poll without bytes and without silence leaves what has come in (R115). -/
theorem Delivered.poll_quiet {s0 s : State} {got : List Byte} {seen : Option Nat} {rest : List (List Byte)}
    (h : Delivered s0 got seen s)
    (hread : s.transportRead = ([], { s with transport := { s.transport with reads := rest } }))
    (hgap : ∀ u, seen = some u → (s.clock - u) % 2 ^ s0.cfg.timeW < s0.pspace) : Delivered s0 got seen s.poll := by
  have hinv := h.inv.poll
  have hrecord : ∃ c, s.poll = ({ s with transport := { s.transport with reads := rest } } : State).onBlock
      (·.recordPoll 0 c) := by
    rw [State.poll_of_noBytes (congrArg Prod.fst hread), hread]
    by_cases h0 : s.block.pendLen = 0
    · exact ⟨.idle, by rw [if_pos h0]; rfl⟩
    · obtain ⟨u, hu, he⟩ := h.elapsed (mt h.pendLen_eq_zero_iff.mpr h0)
      have hlt : s.elapsed s.block.tLastRx < s.pspace := by
        rw [he, h.pspace]
        exact hgap u hu
      exact ⟨.waiting, by rw [if_neg h0, if_pos hlt]; rfl⟩
  obtain ⟨c, hpoll⟩ := hrecord
  rw [hpoll] at hinv ⊢
  exact { h with inv := hinv }

/-- A poll that finds silence judges what has come in (R112, R115). -/
theorem Delivered.poll_silent {s0 s : State} {c : List Byte} {seen : Option Nat} (h : Delivered s0 c seen s)
    (hc : c ≠ []) (hread : s.transportRead.1 = [])
    (hgap : ∀ u, seen = some u → s0.pspace ≤ (s.clock - u) % 2 ^ s0.cfg.timeW) :
    s.poll.block = s.block.emptyPend.judge (c.take s0.cfg.pendingCap) (decide (s0.cfg.pendingCap < c.length)) := by
  obtain ⟨u, hu, he⟩ := h.elapsed hc
  have hsilent : s.pspace ≤ s.elapsed s.block.tLastRx := by
    rw [he, h.pspace]
    exact hgap u hu
  rw [State.poll_of_silence hread (mt h.pendLen_eq_zero_iff.mp hc) hsilent, h.pending, h.pendOvf, h.cfg]

/-! ## Polls at the times of the deliveries -/

/-- One delivery. -/
theorem Delivered.after_poll {s0 s : State} {got new : List Byte} {seen : Option Nat} {rest : List (List Byte)} {n : Nat}
    (h : Delivered s0 got seen s) (hb : s0.block.bitrate ≠ 0#32) (hn : s.clock ≤ n)
    (hreads : s.transport.reads = new :: rest) (hlen : new.length ≤ s0.cfg.readMax)
    (hgap : new = [] → ∀ u, seen = some u → (n - u) % 2 ^ s0.cfg.timeW < s0.pspace) :
    ∃ t, performAll (pollAt s0.cfg n) s = .next t ∧
      Delivered s0 (got ++ new) (if new = [] then seen else some n) t ∧ t.transport.reads = rest ∧ t.clock = n := by
  have hb' : s.block.bitrate ≠ 0#32 := h.bitrate ▸ hb
  have hread := State.transportRead_scheduled { s with clock := n } new rest hreads (h.cfg ▸ hlen)
  obtain ⟨tr, k, hpoll⟩ := ({ s with clock := n } : State).poll_eq
  refine ⟨_, performAll_pollAt h.cfg hn h.idle hb', ?_, ?_, ?_⟩
  · by_cases hne : new = []
    · subst hne
      rw [if_pos rfl, List.append_nil]
      exact (h.clock hn).poll_quiet hread (hgap rfl)
    · rw [if_neg hne]
      exact (h.clock hn).poll_bytes hb' hne hread
  · by_cases hne : new = []
    · rw [State.poll_of_noBytes (by rw [hread]; exact hne), hread]
    · rw [State.poll_of_bytes (by rw [hread]; exact hne), hread]
  · rw [hpoll]

/-- Any deliveries. -/
theorem Delivered.after_polls {s0 s : State} {got : List Byte} {seen : Option Nat} {tail : List (List Byte)} {last : Nat}
    {ds : List (Nat × List Byte)} (h : Delivered s0 got seen s) (hb : s0.block.bitrate ≠ 0#32)
    (hlen : ∀ d ∈ ds, d.2.length ≤ s0.cfg.readMax) (htimes : timesFrom s.clock ds last)
    (hgap : NoSilenceWithin s0.cfg.timeW s0.pspace seen ds) (hreads : s.transport.reads = ds.map Prod.snd ++ tail) :
    ∃ u, performAll (pollEach s0.cfg ds) s = .next u ∧
      Delivered s0 (got ++ ds.flatMap Prod.snd) (lastBytesAt seen ds) u ∧ u.transport.reads = tail ∧
      u.clock ≤ last := by
  induction ds generalizing s got seen with
  | nil =>
    refine ⟨s, rfl, ?_, hreads, htimes⟩
    rw [List.flatMap_nil, List.append_nil]
    exact h
  | cons d ds ih =>
    obtain ⟨htime, htimes⟩ := htimes
    obtain ⟨hquiet, hgap⟩ := hgap
    obtain ⟨v, hv, hdel, hreads', hclock⟩ := h.after_poll hb htime hreads (hlen d List.mem_cons_self) hquiet
    obtain ⟨u, hu, hdelu, hreadsu, hlast⟩ := ih hdel (fun d' hd' => hlen d' (List.mem_cons_of_mem d hd'))
      (hclock.symm ▸ htimes) hgap hreads'
    refine ⟨u, (performAll_append_of_next hv).trans hu, ?_, hreadsu, hlast⟩
    rw [List.flatMap_cons, ← List.append_assoc]
    exact hdelu

/-- Deliveries from an empty PEND, then silence: what has come in is judged. -/
theorem performAll_deliveries {s : State} {ds : List (Nat × List Byte)} {last : Nat} {rest : List (List Byte)}
    {c : List Byte} (hinv : s.Inv) (hi : s.block.txWait = false) (hb : s.block.bitrate ≠ 0#32)
    (h0 : s.block.pendLen = 0) (hlen : ∀ d ∈ ds, d.2.length ≤ s.cfg.readMax) (htimes : timesFrom s.clock ds last)
    (hgap : NoSilenceWithin s.cfg.timeW s.pspace none ds) (hreads : s.transport.reads = ds.map Prod.snd ++ [] :: rest)
    (hsilence : ∀ t, lastBytesAt none ds = some t → s.pspace ≤ (last - t) % 2 ^ s.cfg.timeW)
    (hc : c = ds.flatMap Prod.snd) (hne : c ≠ []) :
    ∃ u t, performAll (pollEach s.cfg ds) s = .next u ∧ performAll (pollAt s.cfg last) u = .next t ∧
      (u.block.fout = s.block.fout ∧ u.block.frameLen = s.block.frameLen ∧ u.block.frameValid = s.block.frameValid) ∧
      t.block = u.block.emptyPend.judge (c.take s.cfg.pendingCap) (decide (s.cfg.pendingCap < c.length)) := by
  obtain ⟨u, hu, hdel, hreadsu, hlast⟩ := (Delivered.start hinv hi h0).after_polls hb hlen htimes hgap hreads
  rw [List.nil_append, ← hc] at hdel
  have hread := State.transportRead_scheduled { u with clock := last } [] rest hreadsu (Nat.zero_le _)
  refine ⟨u, _, hu, performAll_pollAt hdel.cfg hlast hdel.idle (hdel.bitrate ▸ hb), hdel.frame, ?_⟩
  exact (hdel.clock hlast).poll_silent hne (congrArg Prod.fst hread) hsilence

/-! ## The candidate judged -/

/-- A candidate that fits, has 4 bytes and ends in its CRC is latched without it (R117). -/
theorem Block.judge_valid {c : List Byte} {cap : Nat} (h4 : 4 ≤ c.length) (hcap : c.length ≤ cap)
    (hm : CrcMatches c) (b : Block) :
    (b.judge (c.take cap) (decide (cap < c.length))).frameValid = true ∧
      (b.judge (c.take cap) (decide (cap < c.length))).frameLen = c.length - 2 ∧
      (b.judge (c.take cap) (decide (cap < c.length))).fout.take (c.length - 2) = c.take (c.length - 2) ∧
      (b.judge (c.take cap) (decide (cap < c.length))).rxResult = 0x00000004#32 := by
  have hbody : (c.take (c.length - 2)).length = c.length - 2 := List.length_take_of_le (Nat.sub_le _ _)
  rw [List.take_of_length_le hcap, decide_eq_false (Nat.not_lt.mpr hcap), Block.judge_match h4 hm]
  exact ⟨rfl, hbody, List.take_left' hbody, rfl⟩

/-- Any other candidate is discarded, and the frame latched before stays (R116, R117). -/
theorem Block.judge_invalid {c : List Byte} {cap : Nat} (h : ¬(4 ≤ c.length ∧ c.length ≤ cap ∧ CrcMatches c))
    (b : Block) :
    (b.judge (c.take cap) (decide (cap < c.length))).fout = b.fout ∧
      (b.judge (c.take cap) (decide (cap < c.length))).frameLen = b.frameLen ∧
      (b.judge (c.take cap) (decide (cap < c.length))).frameValid = b.frameValid ∧
      (b.judge (c.take cap) (decide (cap < c.length))).rxResult ∈ [0x00000005#32, 0x00000006#32, 0x00000007#32] := by
  by_cases hcap : c.length ≤ cap
  · rw [List.take_of_length_le hcap, decide_eq_false (Nat.not_lt.mpr hcap)]
    by_cases h4 : 4 ≤ c.length
    · rw [Block.judge_mismatch h4 (fun hm => h ⟨h4, hcap, hm⟩)]
      exact ⟨rfl, rfl, rfl, by simp [rxResultWord, RxCode.bits]⟩
    · rw [Block.judge_short (by omega)]
      exact ⟨rfl, rfl, rfl, by simp [rxResultWord, RxCode.bits]⟩
  · rw [decide_eq_true (Nat.lt_of_not_le hcap), Block.judge_lost]
    exact ⟨rfl, rfl, rfl, by simp [rxResultWord, RxCode.bits]⟩

/-- Settles O31: the deliveries add up to the candidate, and silence judges it. -/
theorem framesAreExactlyTheValidCandidates : Obligations.FramesAreExactlyTheValidCandidates := by
  intro s ds last rest c hinv hi hb h0 hlen htimes hgap hreads hsilence hc hne
  obtain ⟨u, t, hu, ht, hframe, hjudged⟩ :=
    performAll_deliveries hinv hi hb h0 hlen htimes hgap hreads hsilence hc hne
  refine ⟨u, t, hu, ht, hframe, ?_, ?_⟩
  · rw [hjudged, Block.judge_frame]
    rfl
  · rw [hjudged]
    split_ifs with hvalid
    · obtain ⟨h4, hcap, hm⟩ := hvalid
      exact Block.judge_valid h4 hcap hm _
    · obtain ⟨hfout, hflen, hfvalid⟩ := hframe
      rw [← hfout, ← hflen, ← hfvalid]
      exact Block.judge_invalid hvalid _

/-! ## The round trip -/

/-- The CRC sent low byte first is the CRC received (R55). -/
theorem crcOfBytes_lo_hi (c : Half) : crcOfBytes (crcLo c) (crcHi c) = c := by
  unfold crcOfBytes crcLo crcHi
  ext k hk
  simp
  grind

/-- A wire frame without its last two bytes is its payload, and those are the payload's CRC (R55, R141). -/
theorem take_wireFrame (p : List Byte) : (wireFrame p).take ((wireFrame p).length - 2) = p := by
  rw [length_wireFrame, Nat.add_sub_cancel, wireFrame, List.take_left' rfl]

theorem crcMatches_wireFrame (p : List Byte) : CrcMatches (wireFrame p) := by
  have hlo : (wireFrame p).getD ((wireFrame p).length - 2) 0#8 = crcLo (crc16 p) := by simp [wireFrame]
  have hhi : (wireFrame p).getD ((wireFrame p).length - 1) 0#8 = crcHi (crc16 p) := by simp [wireFrame]
  rw [CrcMatches, take_wireFrame, hlo, hhi, crcOfBytes_lo_hi]

/-- A TX_FIRE whose frame the transport takes whole puts the wire frame on the line (R141, R147). -/
theorem bytes_of_whole_fire {a a' : State} {e : Sent} (hen : a.txFireEnabled = true)
    (hall : (a.transportWrite (wireFrame a.block.payload).length).1 = (wireFrame a.block.payload).length)
    (ht : perform .fire a = .next a') (hline : a'.line = a.line ++ [e]) : e.bytes = wireFrame a.block.payload := by
  have hpos : 1 ≤ (wireFrame a.block.payload).length := by
    rw [length_wireFrame]
    omega
  have hfire := State.txFire_of_taken hpos (Prod.ext hall rfl)
  obtain rfl : a.sequencerTurn = a' := Host.Outcome.next.inj ht
  rw [State.sequencerTurn_enabled hen, hfire] at hline
  have he := (List.append_cancel_left hline).symm
  rw [List.take_length, List.singleton_inj] at he
  rw [he]

/-- Settles O44: the line carries the payload's wire frame, which the receiver judges as valid, or as short for a payload of
fewer than 2 bytes. -/
theorem sendThenReceiveRoundTrip : Obligations.SendThenReceiveRoundTrip := by
  intro a a' r p ds last rest e hen hp hall hfire hline hfit hinv hi hb h0 hlen htimes hgap hreads hsilence hbytes
  subst hp
  have hsent : e.bytes = wireFrame a.block.payload :=
    bytes_of_whole_fire hen (by rw [length_wireFrame]; exact hall) hfire hline
  have hwlen := length_wireFrame a.block.payload
  have hne : wireFrame a.block.payload ≠ [] := by
    rw [← List.length_pos_iff, hwlen]
    omega
  obtain ⟨u, t, hu, ht, ⟨hfout, -, hfvalid⟩, hjudged⟩ := performAll_deliveries hinv hi hb h0 hlen htimes hgap hreads
    hsilence (hsent.symm.trans hbytes.symm) hne
  have hcap : (wireFrame a.block.payload).length ≤ r.cfg.pendingCap := by
    have := (pendingCap_bounds hinv.legal).1
    rw [Params.foutCap] at hfit
    omega
  refine ⟨t, (performAll_append_of_next hu).trans ht, fun h2 => ?frame, fun h1 => ?short⟩
  case frame =>
    have hvalid := Block.judge_valid (by omega) hcap (crcMatches_wireFrame a.block.payload) u.block.emptyPend
    rw [take_wireFrame, ← hjudged, hwlen, Nat.add_sub_cancel] at hvalid
    exact hvalid
  case short =>
    rw [hjudged, List.take_of_length_le hcap, decide_eq_false (Nat.not_lt.mpr hcap), Block.judge_short (by omega)]
    exact ⟨hfvalid, hfout, rfl⟩

end Sys2Proof.Machine
end

section
/-! Host programs that decide by what they read (30_encoding.md section 6; log 22). -/

namespace Sys2Proof.Machine

open Sys2Proof.Config

/-! ## WAIT_IDLE -/

/-- STATUS read by the host (R24). -/
theorem perform_rdMove_status {p : Params} {s : State} (hp : s.cfg = p) :
    perform (rdMove p 0x004) s = .next { s with readData := s.block.status } := by
  subst hp
  exact perform_rdMove s (by decide) rfl

/-- Moves of the other agents, then one read of STATUS. -/
theorem performAll_then_readStatus {between : List Move} {s u : State} (hu : performAll between s = .next u) :
    performAll (between ++ [rdMove s.cfg 0x004]) s = .next { u with readData := u.block.status } := by
  rw [performAll_append_of_next hu, performAll, perform_rdMove_status (performAll_continues hu).cfg]
  rfl

/-- WAIT_IDLE is done at a value read with BUSY clear (R79). -/
theorem waitIdle_concat (p : Params) (seen : List Word) (v : Word) :
    waitIdle p (seen ++ [v]) = if v.getLsbD 0 = true then some (rdMove p 0x004) else none := by
  simp [waitIdle]

/-- What the host knows while it runs WAIT_IDLE: only the last value read can have BUSY clear, and it is STATUS as it is. -/
structure WaitIdleSeen (seen : List Word) (s : State) : Prop where
  busy : ∀ v ∈ seen.dropLast, v.getLsbD 0 = true
  last : seen = [] ∨ (s.readData = s.block.status ∧ seen.getLast? = some s.block.status)

/-- One more read, where the values read so far all had BUSY set. -/
theorem WaitIdleSeen.concat {seen : List Word} (hbusy : ∀ v ∈ seen, v.getLsbD 0 = true) (u : State) :
    WaitIdleSeen (seen ++ [u.block.status]) { u with readData := u.block.status } := by
  constructor
  · simpa using hbusy
  · exact .inr ⟨rfl, by simp⟩

/-- Where WAIT_IDLE reads again, every value read had BUSY set. -/
theorem WaitIdleSeen.all_busy {seen : List Word} {s : State} (h : WaitIdleSeen seen s) {p : Params} {m : Move}
    (hm : waitIdle p seen = some m) : m = rdMove p 0x004 ∧ ∀ v ∈ seen, v.getLsbD 0 = true := by
  obtain rfl | ⟨init, v, rfl⟩ := List.eq_nil_or_concat' seen
  · exact ⟨(Option.some.inj hm).symm, nofun⟩
  · have hinit : ∀ w ∈ init, w.getLsbD 0 = true := by simpa using h.busy
    rw [waitIdle_concat] at hm
    split at hm
    case isFalse => cases hm
    case isTrue hv =>
      refine ⟨(Option.some.inj hm).symm, fun w hw => ?_⟩
      obtain hw | hw := List.mem_append.mp hw
      · exact hinit w hw
      · rw [List.mem_singleton.mp hw]
        exact hv

theorem WaitIdleSeen.runHost {others : List (List Move)} {seen seen' : List Word} {s t : State} {p : Params}
    (h : WaitIdleSeen seen s) (hp : s.cfg = p) (ht : runHost (waitIdle p) others seen s = .next (seen', t)) :
    WaitIdleSeen seen' t := by
  induction others generalizing seen s with
  | nil =>
    cases ht
    exact h
  | cons between others ih =>
    cases hm : waitIdle p seen with
    | none =>
      cases (runHost_done hm (between :: others) s).symm.trans ht
      exact h
    | some m =>
      obtain ⟨rfl, hbusy⟩ := h.all_busy hm
      subst hp
      cases hu : performAll between s with
      | next u =>
        rw [runHost_next hm (performAll_then_readStatus hu)] at ht
        exact ih (.concat hbusy u) (performAll_continues hu).cfg ht
      | fault r => simp [Machine.runHost, hm, performAll_append, hu] at ht
      | refused r => simp [Machine.runHost, hm, performAll_append, hu] at ht

/-! ## Clock steps before each access -/

/-- Moves that take the Clock from `c` to `c'`, from any state, and change nothing else. -/
def Passes (ms : List Move) (c c' : Nat) : Prop := ∀ s : State, s.clock = c → performAll ms s = .next { s with clock := c' }

theorem passes_of_performAll {ms : List Move} {s t : State} (h : ∀ m ∈ ms, ∃ n, m = .clock n)
    (ht : performAll ms s = .next t) : Passes ms s.clock t.clock := by
  induction ms generalizing s with
  | nil =>
    cases ht
    intro s' hs'
    rw [← hs']
    rfl
  | cons m ms ih =>
    obtain ⟨n, rfl⟩ := h m List.mem_cons_self
    obtain ⟨v, hv, hrest⟩ := performAll_cons_eq_next.mp ht
    have hle : s.clock ≤ n := by
      by_contra hlt
      cases ((clockIsMonotonic s n).2 (Nat.lt_of_not_le hlt)).symm.trans hv
    cases (perform_clock hle).symm.trans hv
    intro s' hs'
    have hs'n : s'.clock ≤ n := hs'.trans_le hle
    exact performAll_cons_eq_next.mpr
      ⟨_, perform_clock hs'n, ih (fun m hm => h m (List.mem_cons_of_mem _ hm)) hrest { s' with clock := n } rfl⟩

/-- Lists of moves that take the Clock from `c` to `c'`, one list after the other. -/
def PassesEach : List (List Move) → Nat → Nat → Prop
  | [], c, c'       => c = c'
  | ms :: rest, c, c' => ∃ d, Passes ms c d ∧ PassesEach rest d c'

theorem performAll_append_eq_next {ms ns : List Move} {s t : State} (h : performAll (ms ++ ns) s = .next t) :
    ∃ u, performAll ms s = .next u ∧ performAll ns u = .next t := by
  rw [performAll_append] at h
  cases hu : performAll ms s <;> rw [hu] at h
  case next u => exact ⟨u, rfl, h⟩
  all_goals cases h

theorem passesEach_of_performAll {others : List (List Move)} {s t : State}
    (h : ∀ m ∈ others.flatten, ∃ n, m = .clock n) (ht : performAll others.flatten s = .next t) :
    PassesEach others s.clock t.clock := by
  induction others generalizing s with
  | nil =>
    cases ht
    rfl
  | cons ms rest ih =>
    rw [List.flatten_cons] at h ht
    obtain ⟨u, hu, hrest⟩ := performAll_append_eq_next ht
    exact ⟨u.clock, passes_of_performAll (fun m hm => h m (List.mem_append_left _ hm)) hu,
      ih (fun m hm => h m (List.mem_append_right _ hm)) hrest⟩

theorem passesEach_append {os os' : List (List Move)} {c c' : Nat} (h : PassesEach (os ++ os') c c') :
    ∃ d, PassesEach os c d ∧ PassesEach os' d c' := by
  induction os generalizing c with
  | nil => exact ⟨c, rfl, h⟩
  | cons ms rest ih =>
    obtain ⟨d, hd, hrest⟩ := h
    obtain ⟨e, he, hos'⟩ := ih hrest
    exact ⟨e, ⟨d, hd, he⟩, hos'⟩

/-- One access of a host program after Clock steps. -/
theorem runHost_after_clock {prog : HostProgram} {seen : List Word} {m : Move} {ms : List Move} {s t : State} {c' : Nat}
    (hm : prog seen = some m) (hms : Passes ms s.clock c') (ht : perform m { s with clock := c' } = .next t)
    (others : List (List Move)) :
    runHost prog (ms :: others) seen s = runHost prog others (seen ++ [t.readData]) t :=
  runHost_next hm ((performAll_append_of_next (hms s rfl)).trans (performAll_cons_eq_next.mpr ⟨t, ht, rfl⟩)) others

/-! ## READ_FRAME -/

/-- FRAME_LEN holds the frame's length whole, so READ_FRAME reads the words the frame fills (R29, R79). -/
theorem frameWordsOf_frameLen {s : State} (hinv : s.Inv) :
    frameWordsOf (BitVec.ofNat 32 s.block.frameLen) = (s.block.frameLen + 3) / 4 := by
  have hcap : s.cfg.pendingCap ≤ 3842 := by
    have hlegal := hinv.legal
    simp only [Params.legal, Params.pendingCapInRange, Bool.and_eq_true, decide_eq_true_eq] at hlegal
    omega
  have hle := hinv.frameLenLe
  rw [Params.foutCap] at hle
  rw [frameWordsOf, BitVec.toNat_ofNat, Nat.mod_eq_of_lt (by omega)]

/-- The frame's words are in the window (R22, R29). -/
theorem frameLen_words_le {s : State} (hinv : s.Inv) : (s.block.frameLen + 3) / 4 ≤ s.cfg.foutWords :=
  Nat.div_le_div_right (Nat.add_le_add_right hinv.frameLenLe 3)

/-- The frame words read one after the other, from word `j` on. -/
theorem runHost_readFrame_words {s : State} (hlegal : s.cfg.legal = true) {n : Word} {os : List (List Move)}
    {j c c' : Nat} (hw : j + os.length = frameWordsOf n) (hle : frameWordsOf n ≤ s.cfg.foutWords)
    (hos : PassesEach os c c') (v : Word) (tail : List (List Move)) :
    ∃ v', runHost (readFrame s.cfg) (os ++ tail) (n :: (List.range j).map s.block.frameWord)
        { s with clock := c, readData := v } =
      runHost (readFrame s.cfg) tail (n :: (List.range (frameWordsOf n)).map s.block.frameWord)
        { s with clock := c', readData := v' } := by
  induction os generalizing j c v with
  | nil =>
    obtain rfl : j = frameWordsOf n := hw
    obtain rfl : c = c' := hos
    exact ⟨v, rfl⟩
  | cons ms rest ih =>
    obtain ⟨d, hms, hrest⟩ := hos
    rw [List.length_cons] at hw
    have hj : j < frameWordsOf n := by omega
    have hprog : readFrame s.cfg (n :: (List.range j).map s.block.frameWord) = some (rdMove s.cfg (0x100 + 4 * j)) := by
      rw [readFrame, List.length_map, List.length_range, if_pos hj]
    have hread := perform_rdMove_frameData (s := { s with clock := d, readData := v }) hlegal (hj.trans_le hle)
    have hseen : n :: (List.range j).map s.block.frameWord ++ [s.block.frameWord j] =
        n :: (List.range (j + 1)).map s.block.frameWord := by
      simp [List.range_succ]
    have hfirst := runHost_after_clock (s := { s with clock := c, readData := v }) hprog hms hread (rest ++ tail)
    obtain ⟨v', hlater⟩ := ih (j := j + 1) (by omega) hrest (s.block.frameWord j)
    rw [← hseen] at hlater
    exact ⟨v', hfirst.trans hlater⟩

/-- The bytes of the frame words are the frame's (R30). -/
theorem frameByte_of_words (b : Block) {j : Nat} (hj : j < b.frameLen) (n : Word) :
    ((n :: (List.range ((b.frameLen + 3) / 4)).map b.frameWord).getD (1 + j / 4) 0#32).extractLsb' (8 * (j % 4)) 8 =
      b.fout.getD j 0#8 := by
  have hword : (n :: (List.range ((b.frameLen + 3) / 4)).map b.frameWord).getD (1 + j / 4) 0#32 = b.frameWord (j / 4) := by
    have hlt : j / 4 < (b.frameLen + 3) / 4 := by omega
    rw [Nat.add_comm 1, List.getD_cons_succ, List.getD_eq_getElem _ _ (by simpa using hlt)]
    simp
  rw [hword, b.extractLsb'_frameWord _ (Nat.mod_lt j (by decide)), Nat.div_add_mod, Block.frameByte, if_pos hj]

/-- READ_FRAME on an idle block, with Clock steps before each access (R79). -/
theorem runHost_readFrame {s : State} {others : List (List Move)} {c' : Nat} (hinv : s.Inv)
    (hi : s.block.txWait = false) (hlen : others.length = (s.block.frameLen + 3) / 4 + 2)
    (hothers : PassesEach others s.clock c') :
    ∃ v, runHost (readFrame s.cfg) others [] s =
      .next ((BitVec.ofNat 32 s.block.frameLen :: (List.range ((s.block.frameLen + 3) / 4)).map s.block.frameWord) ++ [v],
        { s with clock := c', readData := v, block := { s.block with frameLen := 0, frameValid := false } }) := by
  have hwords := frameWordsOf_frameLen hinv
  match others, hothers with
  | first :: rest, ⟨c, hfirst, hrest⟩ =>
    rw [List.length_cons] at hlen
    obtain rfl | ⟨os, last, rfl⟩ := List.eq_nil_or_concat' rest
    · cases hlen
    obtain ⟨d, hos, e, hlast, rfl⟩ := passesEach_append hrest
    have hreadLen : perform (rdMove s.cfg 0x020) { s with clock := c } =
        .next { s with clock := c, readData := BitVec.ofNat 32 s.block.frameLen } :=
      perform_rdMove { s with clock := c } (by decide) rfl
    obtain ⟨v, hrun⟩ := runHost_readFrame_words hinv.legal (n := BitVec.ofNat 32 s.block.frameLen) (j := 0)
      (by simp at hlen; omega) (hwords.trans_le (frameLen_words_le hinv)) hos (BitVec.ofNat 32 s.block.frameLen) [last]
    have hack : perform (issueMove s.cfg .frameAck) { s with clock := e, readData := v } =
        .next (effectOf .frameAck { s with clock := e, readData := v }) :=
      (perform_cmdWrite_of_decode (decode_encode .frameAck) { s with clock := e, readData := v }).trans
        (exec_of_idle hi nofun nofun)
    have hprog : readFrame s.cfg (BitVec.ofNat 32 s.block.frameLen ::
        (List.range (frameWordsOf (BitVec.ofNat 32 s.block.frameLen))).map s.block.frameWord) =
          some (issueMove s.cfg .frameAck) := by
      rw [readFrame, List.length_map, List.length_range, if_neg (Nat.lt_irrefl _), if_pos rfl]
    refine ⟨v, ?_⟩
    rw [runHost_after_clock rfl hfirst hreadLen, List.nil_append]
    refine hrun.trans ?_
    rw [runHost_after_clock hprog hlast hack, hwords]
    rfl

/-- Settles O60: the reads of WAIT_IDLE by the last value seen, and the accesses of READ_FRAME in order. -/
theorem waitIdleAndReadFrame : Obligations.WaitIdleAndReadFrame := by
  refine ⟨fun s u between others hu => ?oneRead, fun s t others seen ht hdone => ?waited,
    fun s u others hinv hi hlen hclock hu => ?frame⟩
  case oneRead =>
    rw [runHost_next rfl (performAll_then_readStatus hu), List.nil_append]
    split
    case isTrue => rfl
    case isFalse hq =>
      refine runHost_done ?_ _ _
      have hbit : ¬ u.block.status.getLsbD 0 = true := by rwa [Block.status_getLsbD_zero]
      rw [← List.nil_append [u.block.status], waitIdle_concat, if_neg hbit]
  case waited =>
    have hseen : WaitIdleSeen seen t := WaitIdleSeen.runHost ⟨by simp, .inl rfl⟩ rfl ht
    obtain rfl | ⟨hread, hlast⟩ := hseen.last
    · cases hdone
    · refine ⟨?_, hread, hlast, hseen.busy⟩
      obtain ⟨init, rfl⟩ := List.getLast?_eq_some_iff.mp hlast
      rw [waitIdle_concat, Block.status_getLsbD_zero] at hdone
      simpa using hdone
  case frame =>
    obtain ⟨v, hrun⟩ := runHost_readFrame hinv hi hlen (passesEach_of_performAll hclock hu)
    refine ⟨_, v, _, hrun, ?_, rfl, fun j hj => frameByte_of_words s.block hj _, rfl⟩
    rw [List.cons_append, readFrame, frameWordsOf_frameLen hinv]
    simp

end Sys2Proof.Machine
end
